-- ==== Sys2Proof/Word.lean ====
section
/-! DEFINITION. The word types of the block. Every value is an unsigned bit vector whose bit 0 is the
least significant (spec/00_scope.md R10); the word operations the rules name stand in
`Machine/Ops.lean`. -/

namespace Sys2Proof

/-- One byte: a command word (R84), a seed byte (R82) or a byte of a fill buffer (R200). -/
abbrev Byte := BitVec 8

/-- A 64-bit word: the expander counter `sm` (R33) and the port `arg64` (R81). -/
abbrev Word64 := BitVec 64

/-- The value on a full-width byte port: `rsp_data` (R81), and the byte lanes of `argseed`, of which an
instance has the low `8·L` bits. -/
abbrev Lanes := BitVec 512

end Sys2Proof
end

