-- ==== Sys2Proof/Config.lean ====
section
/-! DEFINITION. What is fixed when an instance is built: the variant (spec/00_scope.md R3, R6), the widths
derived from it (R7) and the five named open parameters (R8). The block has no free value: the spec leaves
no result of a command open (spec/93_implementation_defined.md U1 to U19), so nothing here is opaque. -/

namespace Sys2Proof

/-- The ten variants of R3, in the order of their ids 0 to 9. -/
inductive Variant where
  | xoroshiro128Plus
  | xoroshiro128StarStar
  | xoshiro256Plus
  | xoshiro256StarStar
  | xoshiro512Plus
  | xoshiro512StarStar
  | xoroshiro64Star
  | xoroshiro64StarStar
  | xoshiro128Plus
  | xoshiro128StarStar
deriving DecidableEq, Repr

/-- `W`, the word width in bits (R3's table, R7). -/
abbrev Variant.W : Variant → Nat
  | .xoroshiro128Plus => 64
  | .xoroshiro128StarStar => 64
  | .xoshiro256Plus => 64
  | .xoshiro256StarStar => 64
  | .xoshiro512Plus => 64
  | .xoshiro512StarStar => 64
  | .xoroshiro64Star => 32
  | .xoroshiro64StarStar => 32
  | .xoshiro128Plus => 32
  | .xoshiro128StarStar => 32

/-- `N`, the word count (R3's table, R7). -/
abbrev Variant.N : Variant → Nat
  | .xoroshiro128Plus => 2
  | .xoroshiro128StarStar => 2
  | .xoshiro256Plus => 4
  | .xoshiro256StarStar => 4
  | .xoshiro512Plus => 8
  | .xoshiro512StarStar => 8
  | .xoroshiro64Star => 2
  | .xoroshiro64StarStar => 2
  | .xoshiro128Plus => 4
  | .xoshiro128StarStar => 4

/-- `WB = W/8`, the word size in bytes (R7). -/
abbrev Variant.WB (v : Variant) : Nat := v.W / 8

/-- `L = N·WB`, the seed length in bytes (R7). -/
abbrev Variant.L (v : Variant) : Nat := v.N * v.WB

/-- `SB = N·W`, the state size in bits (R7). -/
abbrev Variant.SB (v : Variant) : Nat := v.N * v.W

/-- The contents of the generator state register file `S` of R30: `N` words of `W` bits, word 0 first. -/
abbrev Words (v : Variant) : Type := Vector (BitVec v.W) v.N

/-- `SEED_U64_W32_MODE` (R8): how 64-bit expander draws become 32-bit state words (R182). -/
inductive SeedU64W32Mode where
  | truncate
  | byteFill
deriving DecidableEq, Repr

/-- `U64_PAIR_ORDER` (R8): the order of the halves of a 64-bit draw on a 32-bit variant (R160). -/
inductive U64PairOrder where
  | lowFirst
  | highFirst
deriving DecidableEq, Repr

/-- `U32_HALF_SS` (R8): the half a 32-bit draw takes on a 64-bit "**" variant (R159). -/
inductive U32HalfSS where
  | low
  | high
deriving DecidableEq, Repr

/-- `XOSHIRO256_JUMP_LOG2` (R8, R223): the jump distance of variants 2 and 3. -/
inductive Xoshiro256JumpLog2 where
  | log128
  | log64
deriving DecidableEq, Repr

/-- `XOROSHIRO64_JUMP` (R8, R224): whether `jump` exists on variants 6 and 7. -/
inductive Xoroshiro64Jump where
  | absent
  | oneStepEquiv
deriving DecidableEq, Repr

/-- The five named open parameters of R8, each with the default the rule gives. -/
structure Params where
  seedU64W32Mode : SeedU64W32Mode := .truncate
  u64PairOrder : U64PairOrder := .lowFirst
  u32HalfSS : U32HalfSS := .low
  xoshiro256JumpLog2 : Xoshiro256JumpLog2 := .log128
  xoroshiro64Jump : Xoroshiro64Jump := .absent
deriving DecidableEq, Repr

/-- Every parameter at the default of R8. -/
def Config.defaultParams : Params := {}

/-- DESIGN CHOICE (log entry 1): the variant of the one instance that `State.reset` is. The spec gives
`VARIANT` no default (R6); id 0 is taken. Statements range over every variant, so none rests on it. -/
def Config.resetVariant : Variant := .xoroshiro128Plus

end Sys2Proof
end

