-- ==== Sys2Proof/Syntax.lean ====
section
/-! DEFINITION. The commands of the block (spec/30_encoding.md R85), one constructor per row of
spec/opcode_table.json. A command word holds no register field and no immediate (R84), so no constructor
has an argument: every operand comes from the argument ports, which `Machine/State.lean` holds. -/

namespace Sys2Proof

/-- The fourteen commands, in the order of the opcode map (R85). -/
inductive Instr where
  | smSeed      -- 0x10, R105
  | smNext      -- 0x11, R106
  | seedBytes   -- 0x20, R181
  | seedU64     -- 0x21, R183
  | seedSm      -- 0x22, R184
  | step        -- 0x30, R128
  | scramble    -- 0x31, R157
  | next        -- 0x32, R158
  | nextU32     -- 0x33, R159
  | nextU64     -- 0x34, R160
  | jump        -- 0x40, R225
  | readState   -- 0x50, R250
  | status      -- 0x51, R251
  | statusClr   -- 0x52, R252
deriving DecidableEq, Repr

end Sys2Proof
end

