-- ==== Sys2Proof/WellFormed.lean ====
section
/-! DEFINITION. Which commands are legal on an instance: the "legal on" column of the opcode map
(spec/30_encoding.md R85). The only command whose legality depends on the instance is `jump`
(spec/45_jump_operator.md R224). -/

namespace Sys2Proof

/-- `JUMP_PRESENT` (R86, R224): 1 for variants 0 to 5, 8 and 9; on variants 6 and 7 only when
`XOROSHIRO64_JUMP = ONE_STEP_EQUIV`. -/
def jumpPresent (v : Variant) (p : Params) : Bool :=
  match v with
  | .xoroshiro64Star | .xoroshiro64StarStar => p.xoroshiro64Jump == .oneStepEquiv
  | .xoroshiro128Plus | .xoroshiro128StarStar | .xoshiro256Plus | .xoshiro256StarStar
  | .xoshiro512Plus | .xoshiro512StarStar | .xoshiro128Plus | .xoshiro128StarStar => true

/-- The command is legal on an instance of variant `v` with parameters `p` (R85, "legal on"). -/
def Instr.wf (v : Variant) (p : Params) : Instr → Bool
  | .jump => jumpPresent v p
  | .smSeed | .smNext | .seedBytes | .seedU64 | .seedSm | .step | .scramble | .next | .nextU32
  | .nextU64 | .readState | .status | .statusClr => true

end Sys2Proof
end

