-- ==== Sys2Proof/Decode.lean ====
section
/-! DEFINITION. The decoder (spec/30_encoding.md R86) and, after it, the encoder (R84, R85). The decoder
reads the whole command word; the encoder builds it from the `UNIT` and `FUNC` columns, so the two are
written from different columns of the table. -/

namespace Sys2Proof

/-- The opcode map's word column (R85), read as R86's pseudocode does but for the check on `jump`. -/
def opcodeOf (cmd : Byte) : Option Instr :=
  match cmd with
  | 0x10#8 => some .smSeed
  | 0x11#8 => some .smNext
  | 0x20#8 => some .seedBytes
  | 0x21#8 => some .seedU64
  | 0x22#8 => some .seedSm
  | 0x30#8 => some .step
  | 0x31#8 => some .scramble
  | 0x32#8 => some .next
  | 0x33#8 => some .nextU32
  | 0x34#8 => some .nextU64
  | 0x40#8 => some .jump
  | 0x50#8 => some .readState
  | 0x51#8 => some .status
  | 0x52#8 => some .statusClr
  | _ => none

/-- R86's `decode` on an instance of variant `v` with parameters `p`: the command, or `none` where the
decoder raises `ILLEGAL_COMMAND` (R87). Word 0x40 is `jump` only where `JUMP_PRESENT = 1`. -/
def decode (v : Variant) (p : Params) (cmd : Byte) : Option Instr :=
  match opcodeOf cmd with
  | some i => if i.wf v p then some i else none
  | none => none

/-- The `UNIT` field, bits 7:4 (R84, R85). -/
def Instr.unit : Instr → BitVec 4
  | .smSeed | .smNext => 1#4
  | .seedBytes | .seedU64 | .seedSm => 2#4
  | .step | .scramble | .next | .nextU32 | .nextU64 => 3#4
  | .jump => 4#4
  | .readState | .status | .statusClr => 5#4

/-- The `FUNC` field, bits 3:0 (R84, R85). -/
def Instr.func : Instr → BitVec 4
  | .smSeed | .seedBytes | .step | .jump | .readState => 0#4
  | .smNext | .seedU64 | .scramble | .status => 1#4
  | .seedSm | .next | .statusClr => 2#4
  | .nextU32 => 3#4
  | .nextU64 => 4#4

/-- The command word of a command: `UNIT` in bits 7:4 and `FUNC` in bits 3:0 (R84). -/
def encode (i : Instr) : Byte := i.unit ++ i.func

/-- What the decoder of the instance `State.reset` makes of a word of the opcode table. A command word is
exactly 8 bits (R88), so any other length is refused. -/
def decodeTableWord (nbits w : Nat) : Option Instr :=
  if nbits = 8 ∧ w < 256 then decode Config.resetVariant Config.defaultParams (BitVec.ofNat 8 w) else none

end Sys2Proof
end

