-- ==== Sys2Proof/Machine/State.lean ====
section
/-! DEFINITION. The machine's state as plain data, the reasons a step can stop, and the state after reset
(spec/10_state.md R30 to R41, spec/30_encoding.md R81 to R83, spec/70_reset_and_hazards.md R300). The block
has no memory and no address space (spec/20_memory.md R60) and no program counter (R38), so State holds
neither. -/

namespace Sys2Proof.Machine

/-- Why a step stops with a fault. No error of the block does: an error is a response (R270). -/
inductive Fault where
  /-- Raised by `step` when the host changes `cmd`, or an argument the command uses, after raising
  `cmd_valid` and before the command is accepted. The spec gives such a host no behaviour (R304, U4).
  Safe: the model stops where the hardware would go on. -/
  | hostChangedOffer
deriving DecidableEq, Repr

/-- Why a step is refused. -/
inductive Refusal where
  /-- Raised only by an arm of `exec` whose command has no meaning yet; this model has none. Safe. -/
  | notModelled (mnemonic : String)
deriving DecidableEq, Repr

/-- The three error kinds (R271, R272, R273). -/
inductive Err where
  | invalidSeed
  | illegalCommand
  | unseeded
deriving DecidableEq, Repr

/-- A response on the ports `rsp_err`, `rsp_len` and `rsp_data` (R81, R83). `err = none` is `OK`. -/
structure Response where
  err : Option Err
  len : BitVec 7
  data : Lanes
deriving DecidableEq, Repr

/-- The values on the argument ports (R81). An instance has the low `8·L` bits of `argseed`
(log entry 2). -/
structure Args where
  arg64 : Word64
  argseed : Lanes
deriving DecidableEq, Repr

/-- A command word with its argument ports (R81). -/
structure Request where
  cmd : Byte
  args : Args
deriving DecidableEq, Repr

/-- What the host drives on the input ports at one clock edge (R81). -/
structure Slot where
  rst : Bool
  cmdValid : Bool
  req : Request
  rspReady : Bool
deriving DecidableEq, Repr

/-- The sticky error bits `STATUS[4:2]` (R34, R35). -/
structure Sticky where
  invalidSeed : Bool
  illegalCommand : Bool
  unseeded : Bool
deriving DecidableEq, Repr

/-- The variant an instance is built for (R6) and its register file `S` (R30). `words = none` is the
unwritten state, `SEEDED = 0` (R31). -/
structure Generator where
  variant : Variant
  words : Option (Words variant)
deriving DecidableEq, Repr

/-- The block, its ports, and the host that drives them. -/
structure State where
  /-- The variant and the generator state `S` (R6, R30, R31). -/
  gen : Generator
  /-- The open parameters the instance is built with (R8); no step writes them. -/
  params : Params
  /-- The expander counter `sm`; `none` is unwritten, `SM_SEEDED = 0` (R33). -/
  sm : Option Word64
  /-- The sticky error bits (R34, R35). -/
  sticky : Sticky
  /-- `arg64` and `argseed` as sampled when the command that is executing was accepted (R82(a)). They last
  no longer than the command: ending it puts them back to `Args.zero` (R37, R271). -/
  sampled : Args
  /-- What the block drives on its response ports: outside reset `rsp_valid` is 1 exactly when this is `some`,
  and it holds steady until the host takes it (R82, R83). Nothing of a response stays in the state after that
  (R40). DESIGN CHOICE (log entry 8): a command's output stands on these ports. -/
  rsp : Option Response
  /-- A command the host has offered and the block has not accepted yet (R304, host must). -/
  offered : Option Request
  /-- What the host will drive, one entry per clock edge, the next first. The model's own field
  (log entry 6). -/
  inputs : List Slot
deriving DecidableEq, Repr

/-- `SEEDED` (R31): 1 exactly when `S` holds a value. -/
def State.seeded (s : State) : Bool := s.gen.words.isSome

/-- `SM_SEEDED` (R33): 1 exactly when `sm` holds a value. -/
def State.smSeeded (s : State) : Bool := s.sm.isSome

/-- No sticky bit set. -/
def Sticky.clear : Sticky := ⟨false, false, false⟩

/-- The sampled ports while no command executes. DESIGN CHOICE (log entry 3): the spec gives them no value
then, and no command reads them before they are sampled. -/
def Args.zero : Args := ⟨0#64, 0#512⟩

/-- The state after reset of an instance of variant `v` with parameters `p` (R41, R300); the model starts here
(log entry 9). -/
def State.resetOf (v : Variant) (p : Params) : State where
  gen := ⟨v, none⟩
  params := p
  sm := none
  sticky := Sticky.clear
  sampled := Args.zero
  rsp := none
  offered := none
  inputs := []

/-- The state after reset of the instance the host runs (log entry 1). -/
def State.reset : State := State.resetOf Config.resetVariant Config.defaultParams

end Sys2Proof.Machine
end

