-- ==== Sys2Proof/Machine/Ops.lean ====
section
/-! DEFINITION. The operations every meaning is written over: word arithmetic (spec/00_scope.md R12), access
to the registers, ending a command with a response or with an error (R14, spec/60_exceptions.md R274), and
reset (spec/70_reset_and_hazards.md R300). An error takes no trap, saves nothing and changes no mode
(R278), so taking one is `State.raise` alone and there is no return from one (R279). -/

namespace Sys2Proof.Machine

/-- `rotl_w(a, k)` of R12; every rotation amount lies in 1..w-1. -/
def rotl {w : Nat} (a : BitVec w) (k : Nat) : BitVec w := (a <<< k) ||| (a >>> (w - k))

/-- `lo32` of R12. -/
def lo32 (x : Word64) : BitVec 32 := x.extractLsb' 0 32

/-- `hi32` of R12. -/
def hi32 (x : Word64) : BitVec 32 := x.extractLsb' 32 32

/-- The word-wise exclusive or of two word lists (R221). -/
def xorWords {w n : Nat} (a b : Vector (BitVec w) n) : Vector (BitVec w) n :=
  Vector.zipWith (fun x y => x ^^^ y) a b

/-- The all-zero state (R32, R221). -/
def zeroWords (w n : Nat) : Vector (BitVec w) n := Vector.replicate n 0#w

/-- `S <- w` (R11). The file then holds a value, so `SEEDED` is 1 (R31). -/
def State.setWords (s : State) (w : Words s.gen.variant) : State :=
  { s with gen := ⟨s.gen.variant, some w⟩ }

/-- `sm <- c` (R105). The counter then holds a value, so `SM_SEEDED` is 1 (R33). -/
def State.setSm (s : State) (c : Word64) : State := { s with sm := some c }

/-- `respond(len, value)` (R14, R83): the command ends with `OK`, and its sampled ports are given up. -/
def State.respond (s : State) (len : Nat) (value : Lanes) : State :=
  { s with sampled := Args.zero, rsp := some ⟨none, BitVec.ofNat 7 len, value⟩ }

/-- The sticky bits after an error of kind `e`: its own bit set, the others as they were (R274(b)). -/
def Sticky.record (k : Sticky) : Err → Sticky
  | .invalidSeed => { k with invalidSeed := true }
  | .illegalCommand => { k with illegalCommand := true }
  | .unseeded => { k with unseeded := true }

/-- The response of an error: its code, length 0 and data 0 (R83, R274(c)). -/
def Response.error (e : Err) : Response := ⟨some e, 0#7, 0#512⟩

/-- `raise E` (R14, R274): the command ends with the sticky bit and the response, and nothing else; no copy of
its ports is kept (R271, R272). -/
def State.raise (s : State) (e : Err) : State :=
  { s with sampled := Args.zero, sticky := s.sticky.record e, rsp := some (Response.error e) }

/-- A command that reads `S`: `UNSEEDED` while `SEEDED = 0`, else what the command does with the words
(R273). -/
def State.withWords (s : State) (f : Words s.gen.variant → State) : State :=
  match s.gen.words with
  | none => s.raise .unseeded
  | some w => f w

/-- A command that reads `sm`: `UNSEEDED` while `SM_SEEDED = 0`, else what the command does with the
counter (R273). -/
def State.withSm (s : State) (f : Word64 → State) : State :=
  match s.sm with
  | none => s.raise .unseeded
  | some c => f c

/-- A clock edge with `rst = 1` (R300(a), (b)): `S` and `sm` unwritten, the sticky bits 0, and a response
that was not taken is dropped. The variant and the parameters are built in. The offer the host was making
ends too (log entry 5). -/
def State.applyReset (s : State) : State :=
  { s with
    gen := ⟨s.gen.variant, none⟩
    sm := none
    sticky := Sticky.clear
    sampled := Args.zero
    rsp := none
    offered := none }

end Sys2Proof.Machine
end

