-- ==== Sys2Proof/Machine/Operands.lean ====
section
/-! DEFINITION. Byte order and the argument ports (spec/00_scope.md R13, spec/20_memory.md R61 to R64,
spec/30_encoding.md R82, R89). The byte order is decided here and nowhere else: least significant byte
first, word 0 first. -/

namespace Sys2Proof.Machine

/-- Byte `j` of a value: `v[8j+7:8j]` (R13, R81). -/
def byteOf {w : Nat} (x : BitVec w) (j : Nat) : Byte := x.extractLsb' (8 * j) 8

/-- The low `n` bytes of a value, least significant first. -/
def lowBytes {w : Nat} (n : Nat) (x : BitVec w) : List Byte := (List.range n).map (byteOf x)

/-- `LE_w(v)` (R13): the `w/8` bytes of a `w`-bit value. -/
def leBytes {w : Nat} (x : BitVec w) : List Byte := lowBytes (w / 8) x

/-- `fromLE` (R13): the number whose bytes these are, least significant first. -/
def fromLE : List Byte → Nat
  | [] => 0
  | b :: bs => b.toNat + 256 * fromLE bs

/-- The byte lanes that carry these bytes, byte `j` at bits `8j+7:8j` (R83, R250). -/
def packBytes (bs : List Byte) : Lanes := BitVec.ofNat 512 (fromLE bs)

/-- The `L` seed bytes on `argseed` (R81, R89). -/
def seedBytes (v : Variant) (argseed : Lanes) : List Byte := lowBytes v.L argseed

/-- `decode_seed` (R61, R180): word `i` from bytes `i·WB` to `i·WB+WB-1`. -/
def decodeSeed (v : Variant) (b : List Byte) : Words v :=
  Vector.ofFn fun i => BitVec.ofNat v.W (fromLE ((b.drop (i.val * v.WB)).take v.WB))

/-- The `L`-byte encoding of a state (R62, R250): `LE_W(s[0]) ++ ... ++ LE_W(s[N-1])`. -/
def stateBytes (v : Variant) (w : Words v) : List Byte := w.toList.flatMap leBytes

/-- The commands that read `arg64` (R81, R85). -/
def usesArg64 : Instr → Bool
  | .smSeed | .seedU64 => true
  | .smNext | .seedBytes | .seedSm | .step | .scramble | .next | .nextU32 | .nextU64 | .jump | .readState
  | .status | .statusClr => false

/-- The commands that read `argseed` (R81, R85). -/
def usesArgseed : Instr → Bool
  | .seedBytes => true
  | .smSeed | .smNext | .seedU64 | .seedSm | .step | .scramble | .next | .nextU32 | .nextU64 | .jump
  | .readState | .status | .statusClr => false

/-- Two offers are the same to an instance of variant `v`: the same command word, and the same value on
each argument port the command uses (R304: the host holds these steady, and may change an unused port;
R82(f)). -/
def sameOffer (v : Variant) (a b : Request) : Bool :=
  a.cmd == b.cmd
    && (!(opcodeOf a.cmd).any usesArg64 || a.args.arg64 == b.args.arg64)
    && (!(opcodeOf a.cmd).any usesArgseed || seedBytes v a.args.argseed == seedBytes v b.args.argseed)

end Sys2Proof.Machine
end

