-- ==== Sys2Proof/Machine/Flags.lean ====
section
/-! DEFINITION. The `STATUS` register (spec/10_state.md R34) and the error code of a response
(spec/30_encoding.md R83). No command sets a flag from an arithmetic result (R39). -/

namespace Sys2Proof.Machine

/-- `rsp_err` (R83). -/
def errCode : Option Err → BitVec 2
  | none => 0#2
  | some .invalidSeed => 1#2
  | some .illegalCommand => 2#2
  | some .unseeded => 3#2

/-- The variant id of R3, `STATUS[11:8]`. -/
def variantId : Variant → BitVec 4
  | .xoroshiro128Plus => 0#4
  | .xoroshiro128StarStar => 1#4
  | .xoshiro256Plus => 2#4
  | .xoshiro256StarStar => 3#4
  | .xoshiro512Plus => 4#4
  | .xoshiro512StarStar => 5#4
  | .xoroshiro64Star => 6#4
  | .xoroshiro64StarStar => 7#4
  | .xoshiro128Plus => 8#4
  | .xoshiro128StarStar => 9#4

/-- `JUMP_PRESENT` of the instance (R34, R86). -/
def State.jumpPresent (s : State) : Bool := Sys2Proof.jumpPresent s.gen.variant s.params

/-- The 32-bit `STATUS` register, from bit 31 down (R34): reserved 31:25, `JUMP_PRESENT`, `NWORDS`,
`WBYTES`, reserved 15:12, `VARIANT`, reserved 7:5, `ERR_UNSEEDED`, `ERR_ILLEGAL_COMMAND`,
`ERR_INVALID_SEED`, `SM_SEEDED`, `SEEDED`. -/
def State.statusWord (s : State) : BitVec 32 :=
  0#7 ++ BitVec.ofBool s.jumpPresent ++ BitVec.ofNat 4 s.gen.variant.N ++ BitVec.ofNat 4 s.gen.variant.WB
    ++ 0#4 ++ variantId s.gen.variant ++ 0#3 ++ BitVec.ofBool s.sticky.unseeded
    ++ BitVec.ofBool s.sticky.illegalCommand ++ BitVec.ofBool s.sticky.invalidSeed
    ++ BitVec.ofBool s.smSeeded ++ BitVec.ofBool s.seeded

end Sys2Proof.Machine
end

