-- ==== Sys2Proof/Machine/Constants.lean ====
section
/-! DEFINITION. The read-only constant tables of an instance (spec/00_scope.md R9, spec/10_state.md R36):
the expander constants (R100), the update amounts (R121), the scrambler kinds and the star multiplier
(R153, R155) and the jump polynomials (R222). No command writes them and none reads them out. UNVERIFIED (log entry 11):
most are marked in the spec as from general knowledge, and stand here as the spec gives them. -/

namespace Sys2Proof.Machine

/-- `GAMMA` (R100): the odd increment of the expander counter. -/
def gamma : Word64 := 0x9E3779B97F4A7C15#64

/-- `MIX1` (R100): the first odd multiplier. -/
def mix1 : Word64 := 0xBF58476D1CE4E5B9#64

/-- `MIX2` (R100): the second odd multiplier. -/
def mix2 : Word64 := 0x94D049BB133111EB#64

/-- `SH1` (R100). -/
def sh1 : Nat := 30

/-- `SH2` (R100). -/
def sh2 : Nat := 27

/-- `SH3` (R100). -/
def sh3 : Nat := 31

/-- The update amounts `(a, b, c)` of the two-word variants with `W = 64` (R121). -/
def xoroshiro128Amounts : Nat × Nat × Nat := (24, 16, 37)

/-- The update amounts `(A, B)` of xoshiro256 (R121). -/
def xoshiro256Amounts : Nat × Nat := (17, 45)

/-- The update amounts `(A, B)` of xoshiro512 (R121). -/
def xoshiro512Amounts : Nat × Nat := (11, 21)

/-- The update amounts `(a, b, c)` of the two-word variants with `W = 32` (R121). -/
def xoroshiro64Amounts : Nat × Nat × Nat := (26, 9, 13)

/-- The update amounts `(A, B)` of xoshiro128 (R121). -/
def xoshiro128Amounts : Nat × Nat := (9, 11)

/-- The constant of the "*" scrambler and of the scrambler of variant 7 (R153, R154). -/
def starConst : BitVec 32 := 0x9E3779BB#32

/-- The three scramblers of R150. -/
inductive Scrambler where
  | plus
  | starStar
  | star
deriving DecidableEq, Repr

/-- The scrambler column of R3 and R155. -/
def scramblerOf : Variant → Scrambler
  | .xoroshiro128Plus => .plus
  | .xoroshiro128StarStar => .starStar
  | .xoshiro256Plus => .plus
  | .xoshiro256StarStar => .starStar
  | .xoshiro512Plus => .plus
  | .xoshiro512StarStar => .starStar
  | .xoroshiro64Star => .star
  | .xoroshiro64StarStar => .starStar
  | .xoshiro128Plus => .plus
  | .xoshiro128StarStar => .starStar

/-- The jump polynomial of xoroshiro128, 2^64 steps (R222). -/
def xoroshiro128Jump : Vector (BitVec 64) 2 := #v[0xDF900294D8F554A5#64, 0x170865DF4B3201FC#64]

/-- The jump polynomial of xoshiro256 for 2^128 steps (R222, R223). -/
def xoshiro256Jump128 : Vector (BitVec 64) 4 :=
  #v[0x180EC6D33CFD0ABA#64, 0xD5A61266F0C9392C#64, 0xA9582618E03FC9AA#64, 0x39ABDC4529B1661C#64]

/-- The jump polynomial of xoshiro256 for 2^64 steps (R222, R223). -/
def xoshiro256Jump64 : Vector (BitVec 64) 4 :=
  #v[0xB13C16E8096F0754#64, 0xB60D6C5B8C78F106#64, 0x34FAFF184785C20A#64, 0x12E4A2FBFC19BFF9#64]

/-- The jump polynomial of xoshiro512, 2^256 steps (R222). -/
def xoshiro512Jump : Vector (BitVec 64) 8 :=
  #v[0x33ED89B6E7A353F9#64, 0x760083D7955323BE#64, 0x2837F2FBB5F22FAE#64, 0x4B8C5674D309511C#64,
    0xB11AC47A7BA28C25#64, 0xF1BE7667092BCC1C#64, 0x53851EFDB6DF0AAF#64, 0x1EBBC8B23EAF25DB#64]

/-- The jump polynomial of xoroshiro64 under `ONE_STEP_EQUIV`: the polynomial `x` (R222, R224). -/
def xoroshiro64Jump : Vector (BitVec 32) 2 := #v[0x00000002#32, 0x00000000#32]

/-- The jump polynomial of xoshiro128, 2^64 steps (R222). -/
def xoshiro128Jump : Vector (BitVec 32) 4 := #v[0x8764000B#32, 0xF542D2D3#32, 0x6FA035C3#32, 0x77F2DB5B#32]

/-- `J[0..N-1]` of the instance (R222). On variants 6 and 7 under `ABSENT` the instance has no table, and
`execJump` never asks for one (log entry 13). -/
def jumpPoly (v : Variant) (p : Params) : Words v :=
  match v with
  | .xoroshiro128Plus | .xoroshiro128StarStar => xoroshiro128Jump
  | .xoshiro256Plus | .xoshiro256StarStar =>
    match p.xoshiro256JumpLog2 with
    | .log128 => xoshiro256Jump128
    | .log64 => xoshiro256Jump64
  | .xoshiro512Plus | .xoshiro512StarStar => xoshiro512Jump
  | .xoroshiro64Star | .xoroshiro64StarStar => xoroshiro64Jump
  | .xoshiro128Plus | .xoshiro128StarStar => xoshiro128Jump

end Sys2Proof.Machine
end

