-- ==== Sys2Proof/Machine/SeedExpander.lean ====
section
/-! DEFINITION. The seed expander (spec/40_seed_expander.md): the mix, one draw, the expansion, and the
commands `sm_seed` (R105) and `sm_next` (R106). -/

namespace Sys2Proof.Machine

/-- `mix` (R101). -/
def mix (z : Word64) : Word64 :=
  let z := (z ^^^ (z >>> sh1)) * mix1
  let z := (z ^^^ (z >>> sh2)) * mix2
  z ^^^ (z >>> sh3)

/-- `sm_draw` (R102): the new counter, and the mix of the new counter. -/
def smDraw (c : Word64) : Word64 × Word64 :=
  let c' := c + gamma
  (c', mix c')

/-- `expand(c, k)` (R103): the outputs of `k` successive draws, and the counter after them. -/
def expand (c : Word64) : (k : Nat) → Vector Word64 k × Word64
  | 0 => (#v[], c)
  | k + 1 =>
    let (out, c) := expand c k
    let (c', v) := smDraw c
    (out.push v, c')

/-- `sm_seed` (R105): `sm <- arg64`, and `SM_SEEDED <- 1`. -/
def execSmSeed (s : State) : Host.Outcome State Fault Refusal :=
  .next ((s.setSm s.sampled.arg64).respond 0 0#512)

/-- `sm_next` (R106): one expander draw on `sm`, an 8-byte result. -/
def execSmNext (s : State) : Host.Outcome State Fault Refusal :=
  .next (s.withSm fun c => (s.setSm (smDraw c).1).respond 8 ((smDraw c).2.setWidth 512))

end Sys2Proof.Machine
end

