-- ==== Sys2Proof/Machine/Seeding.lean ====
section
/-! DEFINITION. Construction (spec/43_seeding.md): the expansion of a counter value into a state (R182) and
the commands `seed_bytes` (R181), `seed_u64` (R183) and `seed_sm` (R184). -/

namespace Sys2Proof.Machine

/-- Half the draws of a `BYTEFILL` expansion have an entry for every word (R182). -/
theorem half_index_lt (v : Variant) {i : Nat} (h : i < v.N) : i / 2 < v.N / 2 := by
  cases v <;> simp only [Variant.N] at h ⊢ <;> omega

/-- The state words of `N` draws, word `i` from draw `i`: the draw itself for `W = 64`, its low half for
`W = 32` (R182, `W = 64` and `TRUNCATE`). -/
def wordsOfDraws (v : Variant) (d : Vector Word64 v.N) : Words v :=
  Vector.ofFn fun i => (d[i.val]'i.isLt).setWidth v.W

/-- The state words of `N/2` draws, each giving its low half and then its high half (R182, `BYTEFILL`). -/
def wordsOfHalves (v : Variant) (d : Vector Word64 (v.N / 2)) : Words v :=
  Vector.ofFn fun i =>
    let x := d[i.val / 2]'(half_index_lt v i.isLt)
    (if i.val % 2 = 0 then lo32 x else hi32 x).setWidth v.W

/-- `expand_state(c)` (R182): `N` state words, and the counter after the draws. -/
def expandState (v : Variant) (p : Params) (c : Word64) : Words v × Word64 :=
  if v.W = 64 then
    let (d, c') := expand c v.N
    (wordsOfDraws v d, c')
  else
    match p.seedU64W32Mode with
    | .truncate =>
      let (d, c') := expand c v.N
      (wordsOfDraws v d, c')
    | .byteFill =>
      let (d, c') := expand c (v.N / 2)
      (wordsOfHalves v d, c')

/-- `seed_bytes` (R181): `INVALID_SEED` when every one of the `L` seed bytes is zero, else
`S <- decode_seed(argseed)`. -/
def execSeedBytes (s : State) : Host.Outcome State Fault Refusal :=
  .next <|
    let b := seedBytes s.gen.variant s.sampled.argseed
    if b.all (fun x => x == 0#8) then s.raise .invalidSeed
    else (s.setWords (decodeSeed s.gen.variant b)).respond 0 0#512

/-- `seed_u64` (R183): `S` from a fresh transient counter that starts at `arg64`. It never raises an error,
and `sm` is untouched. -/
def execSeedU64 (s : State) : Host.Outcome State Fault Refusal :=
  .next ((s.setWords (expandState s.gen.variant s.params s.sampled.arg64).1).respond 0 0#512)

/-- `seed_sm` (R184): `S` from the standing counter `sm`, which advances by the draws taken. -/
def execSeedSm (s : State) : Host.Outcome State Fault Refusal :=
  .next (s.withSm fun c =>
    ((s.setWords (expandState s.gen.variant s.params c).1).setSm
      (expandState s.gen.variant s.params c).2).respond 0 0#512)

end Sys2Proof.Machine
end

