-- ==== Sys2Proof/Machine/Lfsr.lean ====
section
/-! DEFINITION. The lfsr_state_machine (spec/41_lfsr_state_machine.md): the three update families (R122 to
R124), the update map `T` of an instance (R125), and the command `step` (R128). -/

namespace Sys2Proof.Machine

/-- The two-word update (R122). -/
def step2 {w : Nat} (amounts : Nat × Nat × Nat) (s : Vector (BitVec w) 2) : Vector (BitVec w) 2 :=
  let (a, b, c) := amounts
  let t := s[1] ^^^ s[0]
  let n0 := rotl s[0] a ^^^ t ^^^ (t <<< b)
  let n1 := rotl t c
  #v[n0, n1]

/-- The four-word update (R123), line by line: each line reads what the earlier lines wrote. -/
def step4 {w : Nat} (amounts : Nat × Nat) (s : Vector (BitVec w) 4) : Vector (BitVec w) 4 :=
  let (a, b) := amounts
  let t := s[1] <<< a
  let s2 := s[2] ^^^ s[0]
  let s3 := s[3] ^^^ s[1]
  let s1 := s[1] ^^^ s2
  let s0 := s[0] ^^^ s3
  let s2 := s2 ^^^ t
  let s3 := rotl s3 b
  #v[s0, s1, s2, s3]

/-- The eight-word update (R124), line by line. -/
def step8 {w : Nat} (amounts : Nat × Nat) (s : Vector (BitVec w) 8) : Vector (BitVec w) 8 :=
  let (a, b) := amounts
  let t := s[1] <<< a
  let s2 := s[2] ^^^ s[0]
  let s5 := s[5] ^^^ s[1]
  let s1 := s[1] ^^^ s2
  let s7 := s[7] ^^^ s[3]
  let s3 := s[3] ^^^ s[4]
  let s4 := s[4] ^^^ s5
  let s0 := s[0] ^^^ s[6]
  let s6 := s[6] ^^^ s7
  let s6 := s6 ^^^ t
  let s7 := rotl s7 b
  #v[s0, s1, s2, s3, s4, s5, s6, s7]

/-- The update map `T` of an instance (R125). -/
def advance : (v : Variant) → Words v → Words v
  | .xoroshiro128Plus, s => step2 xoroshiro128Amounts s
  | .xoroshiro128StarStar, s => step2 xoroshiro128Amounts s
  | .xoshiro256Plus, s => step4 xoshiro256Amounts s
  | .xoshiro256StarStar, s => step4 xoshiro256Amounts s
  | .xoshiro512Plus, s => step8 xoshiro512Amounts s
  | .xoshiro512StarStar, s => step8 xoshiro512Amounts s
  | .xoroshiro64Star, s => step2 xoroshiro64Amounts s
  | .xoroshiro64StarStar, s => step2 xoroshiro64Amounts s
  | .xoshiro128Plus, s => step4 xoshiro128Amounts s
  | .xoshiro128StarStar, s => step4 xoshiro128Amounts s

/-- `step` (R128): `S <- T(S)`, no output. -/
def execStep (s : State) : Host.Outcome State Fault Refusal :=
  .next (s.withWords fun w => (s.setWords (advance s.gen.variant w)).respond 0 0#512)

end Sys2Proof.Machine
end

