-- ==== Sys2Proof/Machine/Mixer.lean ====
section
/-! DEFINITION. The xorshift_mixer (spec/42_xorshift_mixer.md): the scramblers (R151 to R155), the draws
(R156, R159, R160), and the commands `scramble` (R157), `next` (R158), `next_u32` (R159) and `next_u64`
(R160). -/

namespace Sys2Proof.Machine

/-- The "+" scrambler (R151) on its two designated words. -/
def plus {w : Nat} (x y : BitVec w) : BitVec w := x + y

/-- The "**" scrambler with multipliers 5 and 9 (R152) on its designated word. -/
def starStar579 {w : Nat} (x : BitVec w) : BitVec w := rotl (x * BitVec.ofNat w 5) 7 * BitVec.ofNat w 9

/-- The "*" scrambler (R153). -/
def star (x : BitVec 32) : BitVec 32 := x * starConst

/-- The "**" scrambler of variant 7 (R154). -/
def starStar64 (x : BitVec 32) : BitVec 32 := rotl (x * starConst) 5 * 5#32

/-- `scramble(S)` of an instance (R155): a function of the words before the update (R150). -/
def scramble : (v : Variant) → Words v → BitVec v.W
  | .xoroshiro128Plus, (s : Vector (BitVec 64) 2) => plus s[0] s[1]
  | .xoroshiro128StarStar, (s : Vector (BitVec 64) 2) => starStar579 s[0]
  | .xoshiro256Plus, (s : Vector (BitVec 64) 4) => plus s[0] s[3]
  | .xoshiro256StarStar, (s : Vector (BitVec 64) 4) => starStar579 s[1]
  | .xoshiro512Plus, (s : Vector (BitVec 64) 8) => plus s[0] s[2]
  | .xoshiro512StarStar, (s : Vector (BitVec 64) 8) => starStar579 s[1]
  | .xoroshiro64Star, (s : Vector (BitVec 32) 2) => star s[0]
  | .xoroshiro64StarStar, (s : Vector (BitVec 32) 2) => starStar64 s[0]
  | .xoshiro128Plus, (s : Vector (BitVec 32) 4) => plus s[0] s[3]
  | .xoshiro128StarStar, (s : Vector (BitVec 32) 4) => starStar579 s[1]

/-- One native draw (R156): the scramble of the words before the update, and the words after it. -/
def nativeDraw (v : Variant) (w : Words v) : BitVec v.W × Words v := (scramble v w, advance v w)

/-- The 32-bit value of a native draw `x` (R159): the draw itself for `W = 32`; the high half on a 64-bit
"+" variant; the half `U32_HALF_SS` names on a 64-bit "**" variant. -/
def halfOfDraw (v : Variant) (p : Params) (x : BitVec v.W) : BitVec 32 :=
  if v.W = 32 then x.setWidth 32
  else if scramblerOf v = .plus then hi32 (x.setWidth 64)
  else
    match p.u32HalfSS with
    | .low => lo32 (x.setWidth 64)
    | .high => hi32 (x.setWidth 64)

/-- The 64-bit value of two 32-bit draws (R160): `{v2, v1}` for `LOW_FIRST`, else `{v1, v2}`. -/
def pairDraws (p : Params) (v1 v2 : BitVec 32) : Word64 :=
  match p.u64PairOrder with
  | .lowFirst => v2 ++ v1
  | .highFirst => v1 ++ v2

/-- A 64-bit draw (R160): one native draw for `W = 64`, a pair of them for `W = 32`. -/
def draw64 (v : Variant) (p : Params) (w : Words v) : Word64 × Words v :=
  if v.W = 64 then
    let (x, w') := nativeDraw v w
    (x.setWidth 64, w')
  else
    let (v1, w1) := nativeDraw v w
    let (v2, w2) := nativeDraw v w1
    (pairDraws p (v1.setWidth 32) (v2.setWidth 32), w2)

/-- `scramble` (R157): the scrambler output, `S` unchanged. -/
def execScramble (s : State) : Host.Outcome State Fault Refusal :=
  .next (s.withWords fun w => s.respond s.gen.variant.WB ((scramble s.gen.variant w).setWidth 512))

/-- `next` (R158): one native draw. -/
def execNext (s : State) : Host.Outcome State Fault Refusal :=
  .next (s.withWords fun w =>
    (s.setWords (nativeDraw s.gen.variant w).2).respond s.gen.variant.WB
      ((nativeDraw s.gen.variant w).1.setWidth 512))

/-- `next_u32` (R159): one native draw, of which 32 bits are returned. -/
def execNextU32 (s : State) : Host.Outcome State Fault Refusal :=
  .next (s.withWords fun w =>
    (s.setWords (nativeDraw s.gen.variant w).2).respond 4
      ((halfOfDraw s.gen.variant s.params (nativeDraw s.gen.variant w).1).setWidth 512))

/-- `next_u64` (R160): one native draw for `W = 64`, two for `W = 32`. -/
def execNextU64 (s : State) : Host.Outcome State Fault Refusal :=
  .next (s.withWords fun w =>
    (s.setWords (draw64 s.gen.variant s.params w).2).respond 8
      ((draw64 s.gen.variant s.params w).1.setWidth 512))

end Sys2Proof.Machine
end

