-- ==== Sys2Proof/Machine/Jump.lean ====
section
/-! DEFINITION. The jump_operator (spec/45_jump_operator.md): the bit scan of R221 and the command `jump`
(R225). -/

namespace Sys2Proof.Machine

/-- The bits of a jump polynomial in scan order (R221, R227): word `J[0]` first, bit 0 first. -/
def scanBits (v : Variant) (j : Words v) : List Bool :=
  j.toList.flatMap fun word => (List.range v.W).map fun b => word.getLsbD b

/-- The loop of R221 from accumulator `acc` and working copy `live`: for each bit, `acc` takes the word-wise
exclusive or with `live` if the bit is 1, and `live` takes one step whether or not it is. -/
def jumpScan (v : Variant) : List Bool → Words v → Words v → Words v
  | [], acc, _ => acc
  | b :: bs, acc, live => jumpScan v bs (if b then xorWords acc live else acc) (advance v live)

/-- `jump_state(S)` (R221) with the polynomial of the instance (R222). -/
def jumpState (v : Variant) (p : Params) (w : Words v) : Words v :=
  jumpScan v (scanBits v (jumpPoly v p)) (zeroWords v.W v.N) w

/-- `jump` (R225): `ILLEGAL_COMMAND` on an instance without a jump (log entry 13), else
`S <- jump_state(S)`. -/
def execJump (s : State) : Host.Outcome State Fault Refusal :=
  .next <|
    if s.jumpPresent then
      s.withWords fun w => (s.setWords (jumpState s.gen.variant s.params w)).respond 0 0#512
    else s.raise .illegalCommand

end Sys2Proof.Machine
end

