-- ==== Sys2Proof/Machine/StatusReadback.lean ====
section
/-! DEFINITION. Status and state read-back (spec/46_status_and_readback.md): the commands `read_state`
(R250), `status` (R251) and `status_clr` (R252). -/

namespace Sys2Proof.Machine

/-- `read_state` (R250): the `L`-byte encoding of `S`, byte `j` at `rsp_data[8j+7:8j]`. -/
def execReadState (s : State) : Host.Outcome State Fault Refusal :=
  .next (s.withWords fun w => s.respond s.gen.variant.L (packBytes (stateBytes s.gen.variant w)))

/-- `status` (R251): the `STATUS` register. -/
def execStatus (s : State) : Host.Outcome State Fault Refusal :=
  .next (s.respond 4 (s.statusWord.setWidth 512))

/-- `status_clr` (R252): `STATUS[4:2] <- 0`. -/
def execStatusClr (s : State) : Host.Outcome State Fault Refusal :=
  .next (State.respond { s with sticky := Sticky.clear } 0 0#512)

end Sys2Proof.Machine
end

