-- ==== Sys2Proof/Machine/Dispatch.lean ====
section
/-! DEFINITION. The meaning of each command of the opcode map (spec/30_encoding.md R85), one arm per
constructor. -/

namespace Sys2Proof.Machine

/-- What a command does to a state whose `sampled` field holds the command's argument ports. -/
def exec (i : Instr) (s : State) : Host.Outcome State Fault Refusal :=
  match i with
  | .smSeed => Sys2Proof.Machine.execSmSeed s
  | .smNext => Sys2Proof.Machine.execSmNext s
  | .seedBytes => Sys2Proof.Machine.execSeedBytes s
  | .seedU64 => Sys2Proof.Machine.execSeedU64 s
  | .seedSm => Sys2Proof.Machine.execSeedSm s
  | .step => Sys2Proof.Machine.execStep s
  | .scramble => Sys2Proof.Machine.execScramble s
  | .next => Sys2Proof.Machine.execNext s
  | .nextU32 => Sys2Proof.Machine.execNextU32 s
  | .nextU64 => Sys2Proof.Machine.execNextU64 s
  | .jump => Sys2Proof.Machine.execJump s
  | .readState => Sys2Proof.Machine.execReadState s
  | .status => Sys2Proof.Machine.execStatus s
  | .statusClr => Sys2Proof.Machine.execStatusClr s

end Sys2Proof.Machine
end

