-- ==== Sys2Proof/Machine/Ports.lean ====
section
/-! DEFINITION. The ports and the handshake (spec/30_encoding.md R80 to R83), reset at a clock edge
(spec/70_reset_and_hazards.md R300) and the host's duty to hold an offer steady (R304). One edge here is one
at which the block is not computing: a command takes its whole effect at the edge that accepts it, since the
latency is unspecified and no rule depends on it (R306, log entry 4). -/

namespace Sys2Proof.Machine

/-- `cmd_ready` at an edge: 0 while `rst = 1` (R300(c)) and while a response waits to be taken (R82(b)).
DESIGN CHOICE (log entry 15): an idle block is ready at every other edge, the first one after reset included.
R82(b) says only when `cmd_ready` is 0, and R300 that the idle block may raise it. -/
def State.cmdReady (s : State) (rst : Bool) : Bool := !rst && s.rsp.isNone

/-- `rsp_valid` at an edge: 0 while `rst = 1` (R300(c)), else 1 exactly while a response is on offer. -/
def State.rspValid (s : State) (rst : Bool) : Bool := !rst && s.rsp.isSome

/-- The block accepts a command: it samples the three ports (R82(a)), decodes before any other check (R275)
and executes the command, or raises `ILLEGAL_COMMAND` (R86, R272). -/
def State.accept (s : State) (r : Request) : Host.Outcome State Fault Refusal :=
  let s := { s with sampled := r.args, offered := none }
  match decode s.gen.variant s.params r.cmd with
  | some i => exec i s
  | none => .next (s.raise .illegalCommand)

/-- The host takes the response (R82(b)): the block keeps no copy (R40). -/
def State.take (s : State) : State := { s with rsp := none }

/-- The response the host takes at an edge with the input ports `q`, if it takes one (R82(b)). -/
def State.edgeOutput (s : State) (q : Slot) : Option Response :=
  if s.rspValid q.rst && q.rspReady then s.rsp else none

/-- The command the block accepts at an edge with the input ports `q`, if it accepts one (R82(a)). -/
def State.edgeAccepts (s : State) (q : Slot) : Option Request :=
  if s.cmdReady q.rst && q.cmdValid then some q.req else none

/-- The host offers a command the block is not ready for: the first such offer is what the host must hold
(R304). -/
def State.noteOffer (s : State) (r : Request) : State := { s with offered := some (s.offered.getD r) }

/-- At this edge the host no longer holds a command it offered and the block has not accepted (R304). Only the
ports the command uses must be held, and lowering `cmd_valid` breaks nothing. DEDUCED (log entry 7). -/
def State.breaksOffer (s : State) (q : Slot) : Bool :=
  match s.offered with
  | some r => !sameOffer s.gen.variant r q.req
  | none => false

/-- One clock edge with the input ports `q`. Reset goes first (R300). A waiting response is taken, or holds
steady (R82(d)), and no command is accepted beside it (R82(b)). Otherwise an offered command is accepted. -/
def State.edge (s : State) (q : Slot) : Host.Outcome State Fault Refusal :=
  if q.rst then .next s.applyReset
  else if s.breaksOffer q then .fault .hostChangedOffer
  else
    match s.rsp with
    | some _ =>
      let s := if q.cmdValid then s.noteOffer q.req else s
      .next (if q.rspReady then s.take else s)
    | none => if q.cmdValid then s.accept q.req else .next s

/-- The output of the next step: the response the host takes at it (R40). -/
def State.output (s : State) : Option Response :=
  match s.inputs with
  | [] => none
  | q :: _ => s.edgeOutput q

/-- The next edge of the host's list. With no edge left nothing happens: between commands the block is idle
and holds its state (spec/60_exceptions.md R281(e)). DEDUCED (log entry 10). -/
def State.clock (s : State) : Host.Outcome State Fault Refusal :=
  match s.inputs with
  | [] => .next s
  | q :: qs => State.edge { s with inputs := qs } q

/-- The input ports of a host that offers the command `r` and takes no response. -/
def Slot.offer (r : Request) : Slot := ⟨false, true, r, false⟩

/-- The input ports of a host that takes the response and offers no command. -/
def Slot.takeOnly (r : Request) : Slot := ⟨false, false, r, true⟩

/-- The input ports with `rst = 1`. -/
def Slot.reset : Slot := ⟨true, false, ⟨0#8, Args.zero⟩, false⟩

end Sys2Proof.Machine
end

