-- ==== Sys2Proof/Machine/Step.lean ====
section
/-! DEFINITION. One step of the machine, and a state whose next step runs a given command word. The block
has no program counter and no fetch (spec/10_state.md R38, spec/20_memory.md R71): a command comes to it on
the ports (log entry 6). -/

namespace Sys2Proof.Machine

/-- One step: the next clock edge of the host's list. -/
def step (s : State) : Host.Outcome State Fault Refusal := State.clock s

/-- `s` with a host that offers the command word `w` next, its argument ports as the `sampled` field has
them, to a block that is ready for it (no response on offer, no other offer held). -/
def State.withFetchWord (s : State) (nbits w : Nat) : State :=
  { s with
    inputs := Slot.offer ⟨BitVec.ofNat 8 (w % 2 ^ nbits), s.sampled⟩ :: s.inputs
    rsp := none
    offered := none }

end Sys2Proof.Machine
end

