-- ==== Sys2Proof/Machine/Run.lean ====
section
/-! DEFINITION. A run, its end and its observation (spec/70_reset_and_hazards.md R307). A run starts from the
state it is given, after reset or any other, and knows nothing of what came before. -/

namespace Sys2Proof.Machine

/-- How a run stands where its edges stop (R307): the host has taken the response to the last command; a reset
cut it; or a response still waits or a command is still offered, so that it has not ended. -/
inductive RunEnd where
  | answered
  | cut
  | unfinished
deriving DecidableEq, Repr

/-- A run: the commands accepted and the responses taken, each in order, how it ended, and its last state. -/
structure Run where
  commands : List Request
  responses : List Response
  ending : RunEnd
  final : State
deriving DecidableEq, Repr

/-- How a run that no reset cuts stands in the state `s`. DESIGN CHOICE (log entry 19): a command that was
offered beside a waiting response and not accepted keeps the run unfinished, even if the host has lowered
`cmd_valid` since; R307 does not say whether such a command belongs to the run. -/
def State.runEnd (s : State) : RunEnd :=
  if s.rsp.isNone && s.offered.isNone then .answered else .unfinished

/-- The run of at most `n` steps from a state, along its list of inputs. A reset ends it; a command that was
accepted and not answered then has no response (R300(b)). The last state of a run that a reset cuts is the
state after the reset, DEDUCED (log entry 16). `none` where a step stops. -/
def runSteps : (n : Nat) → State → Option Run
  | 0, s => some ⟨[], [], s.runEnd, s⟩
  | n + 1, s =>
    match s.inputs with
    | [] => some ⟨[], [], s.runEnd, s⟩
    | q :: _ =>
      match step s with
      | .next t =>
        if q.rst then some ⟨[], [], .cut, t⟩
        else
          match runSteps n t with
          | some z => some { z with
              commands := (s.edgeAccepts q).toList ++ z.commands
              responses := s.output.toList ++ z.responses }
          | none => none
      | .fault _ => none
      | .refused _ => none

/-- The run a state stands before: all its inputs, or those up to the first reset. -/
def State.run (s : State) : Option Run := runSteps s.inputs.length s

/-- A response as the host sees it: `(rsp_err, rsp_len, rsp_data)` (R307(a)). -/
def Response.ports (x : Response) : BitVec 2 × BitVec 7 × Lanes := (errCode x.err, x.len, x.data)

/-- What a run shows (R307): (a) the responses, in command order, and (b) the final architectural state. -/
structure Observation where
  responses : List (BitVec 2 × BitVec 7 × Lanes)
  gen : Generator
  seeded : Bool
  sm : Option Word64
  smSeeded : Bool
  status : BitVec 32
deriving DecidableEq, Repr

/-- The observation of a run that has ended; a run that has not ended has none (R307). -/
def Run.observation (z : Run) : Option Observation :=
  match z.ending with
  | .unfinished => none
  | .answered | .cut =>
    some ⟨z.responses.map Response.ports, z.final.gen, z.final.seeded, z.final.sm, z.final.smSeeded,
      z.final.statusWord⟩

end Sys2Proof.Machine
end

