-- ==== Sys2Proof/Machine/HostProcs.lean ====
section
/-! DEFINITION. Commands as the host sees them, one step each (spec/30_encoding.md R80, spec/10_state.md R40),
and the host procedures over one instance: byte fill (spec/44_output_adapter.md R200 to R203) and the
pseudo-instructions `draw_n` and `jump_k` (R91). Their effect on the block is exactly the commands issued:
their own and those the host interleaves (spec/70_reset_and_hazards.md R304, log entry 14). -/

namespace Sys2Proof.Machine

/-- The request of a command that reads no argument port. -/
def Request.plain (i : Instr) : Request := ⟨encode i, Args.zero⟩

/-- One command as one step (R80): from a state, a command and its argument ports to the response and the
state after, which keeps no copy of it (R40). `none` if the block stops, which it does on no command. -/
def State.transact (s : State) (r : Request) : Option (Response × State) :=
  match s.accept r with
  | .next t =>
    match t.rsp with
    | some x => some (x, t.take)
    | none => none
  | .fault _ => none
  | .refused _ => none

/-- A sequence of commands, each accepted when the response of the one before was taken: the responses in
command order, and the state at the end (R66, R307). -/
def State.runCommands (s : State) : List Request → Option (List Response × State)
  | [] => some ([], s)
  | r :: rs =>
    match s.transact r with
    | some (x, t) =>
      match t.runCommands rs with
      | some (xs, u) => some (x :: xs, u)
      | none => none
    | none => none

/-- The next command of a host procedure, before which the host interleaves `others` (R304): the response of
the procedure's own command, and the state after it. -/
def State.issueAmong (s : State) (others : List Request) (r : Request) : Option (Response × State) :=
  match s.runCommands others with
  | some (_, t) => t.transact r
  | none => none

/-- The same command issued `k` times: its responses in order, and the state after the last one. Entry `i` of
`others` is what the host interleaves before command `i`; where the list has no entry, nothing. -/
def State.repeatCommand (r : Request) :
    (k : Nat) → (others : List (List Request)) → State → Option (List Response × State)
  | 0, _, s => some ([], s)
  | k + 1, others, s =>
    match s.issueAmong (others.headD []) r with
    | some (x, t) =>
      match State.repeatCommand r k others.tail t with
      | some (xs, u) => some (x :: xs, u)
      | none => none
    | none => none

/-- `draw_n k` (R91): `next` repeated `k` times. -/
def State.drawN (s : State) (k : Nat) (others : List (List Request) := []) :
    Option (List Response × State) := State.repeatCommand (.plain .next) k others s

/-- `jump_k k` (R91): `jump` repeated `k` times. -/
def State.jumpK (s : State) (k : Nat) (others : List (List Request) := []) :
    Option (List Response × State) := State.repeatCommand (.plain .jump) k others s

/-- The result bytes of a response, byte 0 first (R83). -/
def Response.bytes (x : Response) : List Byte := lowBytes x.len.toNat x.data

/-- The loop of R200: while the buffer is shorter than `n`, draw and append as many of the draw's bytes as
still fit. The fuel `n` is enough, since every draw appends at least one byte. The host stops at an error.
Entry `i` of `others` is what the host interleaves before draw `i`. -/
def fillLoop (n : Nat) : (fuel : Nat) → (others : List (List Request)) → List Byte → State →
    Option (Except Err (List Byte) × State)
  | 0, _, buf, s => some (.ok buf, s)
  | fuel + 1, others, buf, s =>
    if buf.length < n then
      match s.issueAmong (others.headD []) (.plain .next) with
      | some (x, t) =>
        match x.err with
        | none => fillLoop n fuel others.tail (buf ++ x.bytes.take (n - buf.length)) t
        | some e => some (.error e, t)
      | none => none
    else some (.ok buf, s)

/-- `fill_bytes n` (R200): the buffer, or the error of the first `next` that failed. -/
def State.fillBytes (s : State) (n : Nat) (others : List (List Request) := []) :
    Option (Except Err (List Byte) × State) := fillLoop n n others [] s

/-- `try_fill_bytes n` (R203): the same procedure, which reports `Ok(buf)` whenever every `next` did. -/
def State.tryFillBytes (s : State) (n : Nat) (others : List (List Request) := []) :
    Option (Except Err (List Byte) × State) := s.fillBytes n others

end Sys2Proof.Machine
end

