-- ==== Sys2Proof/Machine/Assembler.lean ====
section
/-! DEFINITION. The assembler (spec/30_encoding.md R90): a command line is a command with its operand, and
assembles to the command word and the argument-port values, or is refused. The text of a line is read by
`parseLine`, the line it names is assembled by `assemble`. A pseudo-instruction line (R91) is read by
`parsePseudo`. What R90 leaves open of the text is log entry 12. -/

namespace Sys2Proof.Machine

/-- The operand of a command line (R90). -/
inductive AsmOperand where
  | absent
  | number (n : Nat)
  | bytes (bs : List Nat)
  | words (ws : List Nat)
deriving DecidableEq, Repr

/-- A command line: the instance it names, if any, the command and the operand (R90). -/
structure AsmLine where
  inst : Option (List Char)
  instr : Instr
  operand : AsmOperand
deriving DecidableEq, Repr

/-- A 64-bit number operand, placed on `arg64`; a value of 2^64 or more does not fit (R90). -/
def assembleNumber (i : Instr) : AsmOperand → Option Request
  | .number n => if n < 2 ^ 64 then some ⟨encode i, { Args.zero with arg64 := BitVec.ofNat 64 n }⟩ else none
  | .absent => none
  | .bytes _ => none
  | .words _ => none

/-- A seed operand: exactly `L` byte values, or exactly `N` word values, which stand for the bytes
`LE_W(w0) ++ ... ++ LE_W(wN-1)` (R90). -/
def assembleSeed (v : Variant) : AsmOperand → Option Request
  | .bytes bs =>
    if bs.length = v.L ∧ bs.all (fun b => b < 256) then
      some ⟨encode .seedBytes, { Args.zero with argseed := packBytes (bs.map (BitVec.ofNat 8)) }⟩
    else none
  | .words ws =>
    if ws.length = v.N ∧ ws.all (fun w => w < 2 ^ v.W) then
      some ⟨encode .seedBytes,
        { Args.zero with argseed := packBytes ((ws.map (BitVec.ofNat v.W)).flatMap leBytes) }⟩
    else none
  | .absent => none
  | .number _ => none

/-- A command without operand (R90). -/
def assemblePlain (i : Instr) : AsmOperand → Option Request
  | .absent => some (Request.plain i)
  | .number _ => none
  | .bytes _ => none
  | .words _ => none

/-- The assembled form of a command line for an instance of variant `v`, or `none` where the operand does
not fit (R90). -/
def assemble (v : Variant) (l : AsmLine) : Option Request :=
  match l.instr with
  | .smSeed => assembleNumber .smSeed l.operand
  | .seedU64 => assembleNumber .seedU64 l.operand
  | .seedBytes => assembleSeed v l.operand
  | .smNext => assemblePlain .smNext l.operand
  | .seedSm => assemblePlain .seedSm l.operand
  | .step => assemblePlain .step l.operand
  | .scramble => assemblePlain .scramble l.operand
  | .next => assemblePlain .next l.operand
  | .nextU32 => assemblePlain .nextU32 l.operand
  | .nextU64 => assemblePlain .nextU64 l.operand
  | .jump => assemblePlain .jump l.operand
  | .readState => assemblePlain .readState l.operand
  | .status => assemblePlain .status l.operand
  | .statusClr => assemblePlain .statusClr l.operand

/-- The mnemonic of a command (R85). -/
def mnemonic : Instr → List Char
  | .smSeed => "sm_seed".toList
  | .smNext => "sm_next".toList
  | .seedBytes => "seed_bytes".toList
  | .seedU64 => "seed_u64".toList
  | .seedSm => "seed_sm".toList
  | .step => "step".toList
  | .scramble => "scramble".toList
  | .next => "next".toList
  | .nextU32 => "next_u32".toList
  | .nextU64 => "next_u64".toList
  | .jump => "jump".toList
  | .readState => "read_state".toList
  | .status => "status".toList
  | .statusClr => "status_clr".toList

/-- The fourteen commands (R85). -/
def allInstrs : List Instr :=
  [.smSeed, .smNext, .seedBytes, .seedU64, .seedSm, .step, .scramble, .next, .nextU32, .nextU64, .jump,
    .readState, .status, .statusClr]

/-- The command a mnemonic names (R90: one of the 14 mnemonics of R85). -/
def instrOfMnemonic (m : List Char) : Option Instr := allInstrs.find? fun i => mnemonic i == m

/-- The text without its comment: all before the first `;` (R90). -/
def stripComment (t : List Char) : List Char := t.takeWhile fun c => c != ';'

/-- The text without blanks at either end. -/
def trimBlanks (t : List Char) : List Char :=
  ((t.dropWhile Char.isWhitespace).reverse.dropWhile Char.isWhitespace).reverse

/-- The value of a digit, decimal or hexadecimal in either case. -/
def digitValue (c : Char) : Option Nat :=
  if '0' ≤ c ∧ c ≤ '9' then some (c.toNat - '0'.toNat)
  else if 'a' ≤ c ∧ c ≤ 'f' then some (c.toNat - 'a'.toNat + 10)
  else if 'A' ≤ c ∧ c ≤ 'F' then some (c.toNat - 'A'.toNat + 10)
  else none

/-- The number whose digits in the given base these are, after the number `acc`. -/
def digitsValue (base : Nat) : (acc : Nat) → List Char → Option Nat
  | acc, [] => some acc
  | acc, c :: cs =>
    match digitValue c with
    | some d => if d < base then digitsValue base (acc * base + d) cs else none
    | none => none

/-- A number in decimal or, after `0x`, in hexadecimal (R90, R10). -/
def parseNumber : List Char → Option Nat
  | '0' :: 'x' :: d :: ds => digitsValue 16 0 (d :: ds)
  | d :: ds => digitsValue 10 0 (d :: ds)
  | [] => none

/-- The parts of a text between commas. -/
def splitCommas : List Char → List (List Char)
  | [] => [[]]
  | ',' :: cs => [] :: splitCommas cs
  | c :: cs =>
    match splitCommas cs with
    | p :: ps => (c :: p) :: ps
    | [] => [[c]]

/-- The numbers of a parenthesised list, `(n0, n1, ...)`. -/
def parseList (t : List Char) : Option (List Nat) :=
  match t with
  | '(' :: rest =>
    match rest.reverse with
    | ')' :: inner => (splitCommas inner.reverse).mapM fun p => parseNumber (trimBlanks p)
    | _ => none
  | _ => none

/-- The operand of a line: nothing, a number, `bytes(...)` or `words(...)` (R90). -/
def parseOperand (t : List Char) : Option AsmOperand :=
  match t with
  | [] => some .absent
  | 'b' :: 'y' :: 't' :: 'e' :: 's' :: rest => (parseList (trimBlanks rest)).map .bytes
  | 'w' :: 'o' :: 'r' :: 'd' :: 's' :: rest => (parseList (trimBlanks rest)).map .words
  | _ => (parseNumber t).map .number

/-- The instance a line names before a colon, if any, and the rest of the line (R90). -/
def splitInstance (t : List Char) : Option (List Char) × List Char :=
  match t.span fun c => c != ':' with
  | (name, _ :: rest) => (some (trimBlanks name), trimBlanks rest)
  | (_, []) => (none, t)

/-- One line of a program (R90): `some none` for a line with no command, `none` for one the assembler
refuses. -/
def parseLine (text : List Char) : Option (Option AsmLine) :=
  let t := trimBlanks (stripComment text)
  if t.isEmpty then some none
  else
    let (inst, command) := splitInstance t
    let (m, rest) := command.span fun c => !c.isWhitespace
    match instrOfMnemonic m, parseOperand (trimBlanks rest) with
    | some i, some op => some (some ⟨inst, i, op⟩)
    | _, _ => none

/-- A pseudo-instruction line (R91). What it does is `System.clone`, `State.jumpK`, `State.fillBytes`,
`State.tryFillBytes` or `State.drawN`. -/
inductive AsmPseudo where
  | clone (source target : List Char)
  | jumpK (inst : Option (List Char)) (k : Nat)
  | fillBytes (inst : Option (List Char)) (n : Nat)
  | tryFillBytes (inst : Option (List Char)) (n : Nat)
  | drawN (inst : Option (List Char)) (k : Nat)
deriving DecidableEq, Repr

/-- The commands a pseudo-instruction stands for on an instance of variant `v` (R91). The second command of
`clone` goes to another instance and carries bytes that only the first one's response gives, so `clone` has
only its first command here. -/
def AsmPseudo.commands (v : Variant) : AsmPseudo → List Request
  | .clone _ _ => [.plain .readState]
  | .jumpK _ k => List.replicate k (.plain .jump)
  | .fillBytes _ n => List.replicate ((n + v.WB - 1) / v.WB) (.plain .next)
  | .tryFillBytes _ n => List.replicate ((n + v.WB - 1) / v.WB) (.plain .next)
  | .drawN _ k => List.replicate k (.plain .next)

/-- `<A> -> <B>`, the operand of `clone` (R91). -/
def parseArrow (t : List Char) : Option (List Char × List Char) :=
  let (a, rest) := t.span fun c => !c.isWhitespace
  match a, trimBlanks rest with
  | _ :: _, '-' :: '>' :: b =>
    match trimBlanks b with
    | c :: cs => some (a, c :: cs)
    | [] => none
  | _, _ => none

/-- One pseudo-instruction line (R91), or `none` for any other line. DESIGN CHOICE (log entry 18): R90 gives an
instance prefix to command lines, and R91 says nothing of one. Here `jump_k`, `fill_bytes`, `try_fill_bytes`
and `draw_n` may carry one, as the commands they stand for may, and `clone`, which names both its instances,
may not. -/
def parsePseudo (text : List Char) : Option AsmPseudo :=
  let (inst, command) := splitInstance (trimBlanks (stripComment text))
  let (m, rest) := command.span fun c => !c.isWhitespace
  let operand := trimBlanks rest
  if m == "clone".toList then
    if inst.isNone then (parseArrow operand).map fun (a, b) => .clone a b else none
  else if m == "jump_k".toList then (parseNumber operand).map (.jumpK inst)
  else if m == "fill_bytes".toList then (parseNumber operand).map (.fillBytes inst)
  else if m == "try_fill_bytes".toList then (parseNumber operand).map (.tryFillBytes inst)
  else if m == "draw_n".toList then (parseNumber operand).map (.drawN inst)
  else none

end Sys2Proof.Machine
end

