-- ==== Sys2Proof/Machine/System.lean ====
section
/-! DEFINITION. Several instances side by side (spec/20_memory.md R72, spec/60_exceptions.md R281(c)): each
has its own state and a command on one reaches no other. Over them, the host's `clone`
(spec/30_encoding.md R91) and the set-up of parallel streams (spec/70_reset_and_hazards.md R303). -/

namespace Sys2Proof.Machine

/-- The instances a host drives, in the order it numbers them. -/
structure System where
  blocks : List State
deriving DecidableEq, Repr

/-- One transaction on instance `k`. -/
def System.transact (y : System) (k : Nat) (r : Request) : Option (Response × System) :=
  match y.blocks[k]? with
  | some s =>
    match s.transact r with
    | some (x, t) => some (x, ⟨y.blocks.set k t⟩)
    | none => none
  | none => none

/-- Commands on the instances, one after the other: the system after the last one. -/
def System.runCommands (y : System) : List (Nat × Request) → Option System
  | [] => some y
  | (k, r) :: rs =>
    match y.transact k r with
    | some (_, y') => y'.runCommands rs
    | none => none

/-- `clone a -> b` (R91): `read_state` on `a`, then `seed_bytes bytes(r)` with the bytes read on `b`, and
`others` the commands the host interleaves between the two (R304, R305(e)). The host gets the response of the
second command, or the error of the first. `none`, and nothing issued, where the assembler refuses the line:
an instance is missing, or the `L` bytes of `a` are not the `L` bytes of `b` (R90, log entry 17). -/
def System.clone (y : System) (a b : Nat) (others : List (Nat × Request) := []) :
    Option (Response × System) :=
  match y.blocks[a]?, y.blocks[b]? with
  | some s, some t =>
    if s.gen.variant.L = t.gen.variant.L then
      match y.transact a (.plain .readState) with
      | some (x, y') =>
        match x.err with
        | none =>
          match y'.runCommands others,
            assemble t.gen.variant ⟨none, .seedBytes, .bytes (x.bytes.map BitVec.toNat)⟩ with
          | some z, some r => z.transact b r
          | _, _ => none
        | some _ => some (x, y')
      | none => none
    else none
  | _, _ => none

/-- The procedure of R303 on one instance: the common seeding command, then `jump` `k` times. -/
def State.setUpStream (s : State) (seed : Request) (k : Nat) : Option State :=
  match s.transact seed with
  | some (_, t) =>
    match t.jumpK k with
    | some (_, u) => some u
    | none => none
  | none => none

/-- The procedure of R303 on every instance: instance `k` jumps `k` times. -/
def System.setUpStreams (y : System) (seed : Request) : Option System :=
  match (y.blocks.zipIdx).mapM fun (s, k) => s.setUpStream seed k with
  | some bs => some ⟨bs⟩
  | none => none

end Sys2Proof.Machine
end

