-- ==== Sys2Proof/Safety.lean ====
section
/-! DEFINITION. The terms the statements use: a response as the spec says every response is, the invariant
of a run, the host's duty at the next edge, and the observation of a run. -/

namespace Sys2Proof.Machine

/-- A response as R83 says every response is: at most 64 result bytes, every bit of `rsp_data` at or above
`8·rsp_len` is 0, and an error carries no result. -/
def Response.wf (x : Response) : Bool :=
  decide (x.len.toNat ≤ 64) && decide (x.data.toNat < 2 ^ (8 * x.len.toNat))
    && (x.err.isNone || (x.len == 0#7 && x.data == 0#512))

/-- The response on offer is well formed (R83). -/
def State.inv (s : State) : Bool := s.rsp.all Response.wf

/-- At the next edge the host keeps its duty: it resets the block, or holds a command it has offered
(R304). -/
def State.hostKeepsOffer (s : State) : Bool :=
  match s.inputs with
  | [] => true
  | q :: _ => q.rst || !s.breaksOffer q

/-- The state of the generator `S` holds a value that is not all zero (R32). -/
def State.nonzero (s : State) : Bool :=
  match s.gen.words with
  | some w => w != zeroWords s.gen.variant.W s.gen.variant.N
  | none => false

/-- The closed form of word `i` of the expansion of counter value `c` (R182, R103): draw `i + 1` itself or
its low half, or under `BYTEFILL` on a 32-bit variant the low half (even `i`) or high half (odd `i`) of draw
`i/2 + 1`. -/
def expandedWord (v : Variant) (p : Params) (c : Word64) (i : Nat) : BitVec v.W :=
  if v.W = 64 ∨ p.seedU64W32Mode = .truncate then
    (mix (c + BitVec.ofNat 64 (i + 1) * gamma)).setWidth v.W
  else
    let x := mix (c + BitVec.ofNat 64 (i / 2 + 1) * gamma)
    (if i % 2 = 0 then x else x >>> 32).setWidth v.W

/-- How many expander draws an expansion takes (R182, R184). -/
def drawsTaken (v : Variant) (p : Params) : Nat :=
  if v.W = 64 ∨ p.seedU64W32Mode = .truncate then v.N else v.N / 2

/-- The characteristic polynomial of the update map, bit `i` being the coefficient of `x^i` (R127). -/
def characteristicPoly : Variant → Nat
  | .xoroshiro128Plus | .xoroshiro128StarStar => 0x10008828e513b43d5095b8f76579aa001
  | .xoshiro256Plus | .xoshiro256StarStar =>
    0x10003c03c3f3ecb1904b4edcf26259f850280002bcefd1a5e9d116f2bb0f0f001
  | .xoshiro512Plus | .xoshiro512StarStar =>
    0x10000500055d8b77f8f2d27268ce4b20b51ba7c47edc758adf11eef832e32518f7a67058e7bbab6f0f05e63fca6d7b7817fdc78d886f00c63cf3cff0c00000001
  | .xoroshiro64Star | .xoroshiro64StarStar => 0x1053be9da6e2286c1
  | .xoshiro128Plus | .xoshiro128StarStar => 0x100fc65a2006254b11b489db6de18fc01

/-- The commands that read `S`, and so need `SEEDED` (R85, R273). -/
def readsWords : Instr → Bool
  | .step | .scramble | .next | .nextU32 | .nextU64 | .jump | .readState => true
  | .smSeed | .smNext | .seedBytes | .seedU64 | .seedSm | .status | .statusClr => false

/-- The commands that read `sm`, and so need `SM_SEEDED` (R85, R273). -/
def readsSm : Instr → Bool
  | .smNext | .seedSm => true
  | .smSeed | .seedBytes | .seedU64 | .step | .scramble | .next | .nextU32 | .nextU64 | .jump | .readState
  | .status | .statusClr => false

/-- The commands that may write `S` (R30). -/
def writesWords : Instr → Bool
  | .seedBytes | .seedU64 | .seedSm | .step | .next | .nextU32 | .nextU64 | .jump => true
  | .smSeed | .smNext | .scramble | .readState | .status | .statusClr => false

/-- The commands that may write `sm` (R33). -/
def writesSm : Instr → Bool
  | .smSeed | .smNext | .seedSm => true
  | .seedBytes | .seedU64 | .step | .scramble | .next | .nextU32 | .nextU64 | .jump | .readState
  | .status | .statusClr => false

/-- The error the table of R276 gives for a command offered to an instance, in the order of R275; `none`
where it gives none. -/
def expectedError (s : State) (r : Request) : Option Err :=
  match decode s.gen.variant s.params r.cmd with
  | none => some .illegalCommand
  | some i =>
    if readsWords i && !s.seeded then some .unseeded
    else if readsSm i && !s.smSeeded then some .unseeded
    else if i == .seedBytes && r.args.argseed.setWidth (8 * s.gen.variant.L) == 0 then some .invalidSeed
    else none

/-- Two states that differ at most in the ports last sampled and in the commands not yet accepted agree on everything the block computes from (R37, R302). -/
def State.sameBlock (s t : State) : Bool :=
  s.gen == t.gen && s.params == t.params && s.sm == t.sm && s.sticky == t.sticky && s.rsp == t.rsp

end Sys2Proof.Machine
end

