-- ==== Sys2Proof/Certificates/Slice0/Obligations.lean ====
section
/-! DEFINITION. The statements about the block. Each cites the rules of spec/ it formalises. A statement that
ranges over all states ranges over all ten variants and all values of the five open parameters, since a
state carries both. A next state is given whole. Its fields `sampled`, `offered` and `inputs` are the model's
own (log entries 3, 5 and 6): what a statement says of them is the model's choice, and no claim about the block
rests on it. That an edge with no reset and no response on offer is one at which the block is ready is the
model's choice too (log entries 4 and 15): a statement about such an edge is one about the edge at which the
command is accepted. -/

open Sys2Proof Sys2Proof.Machine

/-! ## Command words -/

/-- R84 to R88: a command word decodes to a command exactly when it is that command's word and the command is
legal on the instance. So decoding an encoded legal command gives it back, and no other word decodes. -/
def Obligations.DecodeAndEncodeAgree : Prop :=
  ∀ (v : Variant) (p : Params) (cmd : Byte) (i : Instr),
    decode v p cmd = some i ↔ i.wf v p = true ∧ encode i = cmd

/-- R85: a word of each unit, written out as the opcode map gives it, on an instance that has a jump (a
sanity statement). -/
def Obligations.OneWordOfEachUnitDecodes : Prop :=
  ∀ (v : Variant) (p : Params), jumpPresent v p = true →
    decode v p 0b00010001#8 = some .smNext ∧ decode v p 0b00100000#8 = some .seedBytes ∧
    decode v p 0b00110100#8 = some .nextU64 ∧ decode v p 0b01000000#8 = some .jump ∧
    decode v p 0b01010010#8 = some .statusClr

/-- R86, R224: the decoder of every instance. Thirteen words are always legal, 0x40 exactly where
`JUMP_PRESENT = 1`, and every other word raises `ILLEGAL_COMMAND` before any other check. `JUMP_PRESENT` is 1
for variants 0 to 5, 8 and 9, and on variants 6 and 7 only when `XOROSHIRO64_JUMP = ONE_STEP_EQUIV`. -/
def Obligations.DecoderOfEveryInstance : Prop :=
  ∀ (v : Variant) (p : Params),
    [0x10#8, 0x11#8, 0x20#8, 0x21#8, 0x22#8, 0x30#8, 0x31#8, 0x32#8, 0x33#8, 0x34#8, 0x50#8, 0x51#8,
      0x52#8].map (decode v p) =
      [some .smSeed, some .smNext, some .seedBytes, some .seedU64, some .seedSm, some .step, some .scramble,
        some .next, some .nextU32, some .nextU64, some .readState, some .status, some .statusClr] ∧
    decode v p 0x40#8 = (if jumpPresent v p then some .jump else none) ∧
    (∀ cmd : Byte, cmd ∉ [0x10#8, 0x11#8, 0x20#8, 0x21#8, 0x22#8, 0x30#8, 0x31#8, 0x32#8, 0x33#8, 0x34#8,
      0x40#8, 0x50#8, 0x51#8, 0x52#8] → decode v p cmd = none) ∧
    (jumpPresent v p = true ↔
      (v ≠ .xoroshiro64Star ∧ v ≠ .xoroshiro64StarStar) ∨ p.xoroshiro64Jump = .oneStepEquiv) ∧
    ∀ (s : State) (r : Request), decode s.gen.variant s.params r.cmd = none →
      s.accept r = .next (State.raise { s with sampled := r.args, offered := none } .illegalCommand)

/-! ## Steps, ports and reset -/

/-- R80, R82(a), R86: at an edge at which the block is ready (log entry 15), a command offered whose word
decodes to `i` is accepted, and the step is `exec i` of the state with the three ports sampled. -/
def Obligations.StepRunsDecodedCommand : Prop :=
  ∀ (s : State) (q : Slot) (qs : List Slot) (i : Instr),
    s.inputs = q :: qs → q.rst = false → q.cmdValid = true → s.rsp = none → s.breaksOffer q = false →
    decode s.gen.variant s.params q.req.cmd = some i →
    step s = exec i { s with inputs := qs, sampled := q.req.args, offered := none }

/-- R86, R87, R272, R275: every word that is not the word of a command legal on the instance raises
`ILLEGAL_COMMAND`, even on an unseeded block and whatever the arguments: its sticky bit is set, the response
is code 2 with no result, and nothing else of the block changes; the word is not recorded. -/
def Obligations.IllegalWordsRaiseIllegalCommand : Prop :=
  ∀ (s : State) (q : Slot) (qs : List Slot),
    s.inputs = q :: qs → q.rst = false → q.cmdValid = true → s.rsp = none → s.breaksOffer q = false →
    (∀ i : Instr, i.wf s.gen.variant s.params = true → encode i ≠ q.req.cmd) →
    ∃ t, step s = .next t ∧ t.gen = s.gen ∧ t.seeded = s.seeded ∧ t.params = s.params ∧ t.sm = s.sm ∧
      t.smSeeded = s.smSeeded ∧ t.sticky = { s.sticky with illegalCommand := true } ∧
      t.rsp = some ⟨some .illegalCommand, 0#7, 0#512⟩ ∧ t.inputs = qs ∧ t.offered = none ∧ s.output = none

/-- R82(b), (d), (e): while a response waits and the host keeps its offer, `cmd_ready` is 0 and no command is
accepted: an edge changes nothing of the block but that the host may take the response, which is then the
output of the step and is gone from the ports; while it is not taken it holds steady. -/
def Obligations.WaitingResponseBlocksCommands : Prop :=
  ∀ (s : State) (q : Slot) (qs : List Slot) (x : Response),
    s.inputs = q :: qs → q.rst = false → s.rsp = some x → s.breaksOffer q = false →
    s.cmdReady q.rst = false ∧ s.rspValid q.rst = true ∧
    ∃ t, step s = .next t ∧ t.inputs = qs ∧ t.gen = s.gen ∧ t.params = s.params ∧ t.sm = s.sm ∧
      t.sticky = s.sticky ∧ t.sampled = s.sampled ∧
      t.rsp = (if q.rspReady then none else some x) ∧
      s.output = (if q.rspReady then some x else none)

/-- R300, R41: an edge with `rst = 1`, in any state and even while a response waits, leaves every piece of
state at its reset value; the waiting response is dropped and not taken; and `cmd_ready` and `rsp_valid` are 0
while `rst = 1`. In the first cycle with `rst = 0` `rsp_valid` is 0 and `cmd_ready` is 1: that it is 1 there,
where R300 says the block may raise it, is the model's choice (log entries 4 and 15). -/
def Obligations.ResetAtAnyEdge : Prop :=
  ∀ (s : State) (q : Slot) (qs : List Slot), s.inputs = q :: qs → q.rst = true →
    s.cmdReady q.rst = false ∧ s.rspValid q.rst = false ∧
    ∃ t, step s = .next t ∧ t.gen.words = none ∧ t.seeded = false ∧ t.sm = none ∧ t.smSeeded = false ∧
      t.sticky = ⟨false, false, false⟩ ∧ t.rsp = none ∧ s.output = none ∧ t.inputs = qs ∧
      t.gen.variant = s.gen.variant ∧ t.params = s.params ∧
      t.cmdReady false = true ∧ t.rspValid false = false

/-- R41: the state after reset of any instance: `S` and `sm` unwritten, so that reading either raises
`UNSEEDED`; both flags and the sticky bits 0; the hardwired fields of `STATUS` as R34 gives them; and no
response on offer. -/
def Obligations.ResetStateIsUnwritten : Prop :=
  ∀ (v : Variant) (p : Params),
    (State.resetOf v p).gen = ⟨v, none⟩ ∧ (State.resetOf v p).params = p ∧
    (State.resetOf v p).seeded = false ∧ (State.resetOf v p).sm = none ∧
    (State.resetOf v p).smSeeded = false ∧ (State.resetOf v p).sticky = ⟨false, false, false⟩ ∧
    (State.resetOf v p).rsp = none ∧
    (∀ i : Instr, i.wf v p = true → readsWords i = true ∨ readsSm i = true →
      exec i (State.resetOf v p) = .next ((State.resetOf v p).raise .unseeded)) ∧
    (State.resetOf v p).statusWord.extractLsb' 0 8 = 0#8 ∧
    (State.resetOf v p).statusWord.extractLsb' 8 4 = variantId v ∧
    ((State.resetOf v p).statusWord.extractLsb' 16 4).toNat = v.WB ∧
    ((State.resetOf v p).statusWord.extractLsb' 20 4).toNat = v.N ∧
    (State.resetOf v p).statusWord.getLsbD 24 = jumpPresent v p

/-- R270, R304: a step always answers a next state while the host keeps its duty, and faults exactly when the
host breaks it; no command hangs or stops the block. The fault is the model's name for the move R304 does
not give (log entry 7). -/
def Obligations.OnlyABrokenOfferStopsTheBlock : Prop :=
  ∀ s : State,
    (s.hostKeepsOffer = true → ∃ t, step s = .next t) ∧
    (s.hostKeepsOffer = false → step s = .fault .hostChangedOffer)

/-! ## Status -/

/-- R251: `status` returns the `STATUS` register and changes nothing but the response; after reset the
register holds the value of the rule's table. The table is the spec's own inference from R34 and R41. -/
def Obligations.StatusCommandAndResetValues : Prop :=
  (∀ s : State, decode s.gen.variant s.params 0x51#8 = some .status ∧
    exec .status s = .next (s.respond 4 (s.statusWord.setWidth 512))) ∧
  ∀ p : Params,
    (State.resetOf .xoroshiro128Plus p).statusWord = 0x01280000#32 ∧
    (State.resetOf .xoroshiro128StarStar p).statusWord = 0x01280100#32 ∧
    (State.resetOf .xoshiro256Plus p).statusWord = 0x01480200#32 ∧
    (State.resetOf .xoshiro256StarStar p).statusWord = 0x01480300#32 ∧
    (State.resetOf .xoshiro512Plus p).statusWord = 0x01880400#32 ∧
    (State.resetOf .xoshiro512StarStar p).statusWord = 0x01880500#32 ∧
    (State.resetOf .xoroshiro64Star p).statusWord =
      (if p.xoroshiro64Jump = .absent then 0x00240600#32 else 0x01240600#32) ∧
    (State.resetOf .xoroshiro64StarStar p).statusWord =
      (if p.xoroshiro64Jump = .absent then 0x00240700#32 else 0x01240700#32) ∧
    (State.resetOf .xoshiro128Plus p).statusWord = 0x01440800#32 ∧
    (State.resetOf .xoshiro128StarStar p).statusWord = 0x01440900#32

/-- R34: the fields of `STATUS` in every state, the reserved bits reading 0. -/
def Obligations.StatusFieldsOfEveryState : Prop :=
  ∀ s : State,
    s.statusWord.getLsbD 0 = s.seeded ∧ s.statusWord.getLsbD 1 = s.smSeeded ∧
    s.statusWord.getLsbD 2 = s.sticky.invalidSeed ∧ s.statusWord.getLsbD 3 = s.sticky.illegalCommand ∧
    s.statusWord.getLsbD 4 = s.sticky.unseeded ∧ s.statusWord.extractLsb' 5 3 = 0#3 ∧
    s.statusWord.extractLsb' 8 4 = variantId s.gen.variant ∧ s.statusWord.extractLsb' 12 4 = 0#4 ∧
    (s.statusWord.extractLsb' 16 4).toNat = s.gen.variant.WB ∧
    (s.statusWord.extractLsb' 20 4).toNat = s.gen.variant.N ∧
    s.statusWord.getLsbD 24 = jumpPresent s.gen.variant s.params ∧
    s.statusWord.extractLsb' 25 7 = 0#7

/-- R252: `status_clr` clears the three sticky bits and nothing else; in `STATUS` it clears bits 4:2 and
keeps every other bit. -/
def Obligations.StatusClrClearsOnlyStickyBits : Prop :=
  ∀ s : State, decode s.gen.variant s.params 0x52#8 = some .statusClr ∧ ∃ t, exec .statusClr s = .next t ∧
    t = State.respond { s with sticky := ⟨false, false, false⟩ } 0 0#512 ∧
    t.statusWord = s.statusWord &&& 0xFFFFFFE3#32

/-- R35: no step clears a sticky bit but one that accepts `status_clr` or has `rst = 1`. -/
def Obligations.StickyBitsPersist : Prop :=
  ∀ (s t : State) (q : Slot) (qs : List Slot), s.inputs = q :: qs → step s = .next t → q.rst = false →
    ¬(s.rsp = none ∧ q.cmdValid = true ∧ q.req.cmd = 0x52#8) →
    (s.sticky.invalidSeed = true → t.sticky.invalidSeed = true) ∧
    (s.sticky.illegalCommand = true → t.sticky.illegalCommand = true) ∧
    (s.sticky.unseeded = true → t.sticky.unseeded = true)

/-- R31, R33: only an edge with `rst = 1` clears `SEEDED` or `SM_SEEDED`. -/
def Obligations.OnlyResetClearsSeeded : Prop :=
  ∀ (s t : State) (q : Slot) (qs : List Slot), s.inputs = q :: qs → step s = .next t → q.rst = false →
    (s.seeded = true → t.seeded = true) ∧ (s.smSeeded = true → t.smSeeded = true)

/-- R6, R8, R36: no step changes the variant or a parameter of the instance. -/
def Obligations.ConfigurationNeverChanges : Prop :=
  ∀ s t : State, step s = .next t → t.gen.variant = s.gen.variant ∧ t.params = s.params

/-! ## Errors -/

/-- R14, R83, R274: the two ways a command ends. `respond` puts the length and value on the response ports
with code 0 and changes nothing else; `raise` puts the error's code there with no result, sets its sticky
bit, and changes nothing else. Both give up the sampled ports. The statements about commands are written
with these. That they give up the sampled ports is the model's choice (log entry 3). -/
def Obligations.RespondAndRaiseEndACommand : Prop :=
  ∀ s : State,
    (∀ (n : Nat) (x : Lanes), s.respond n x =
      { s with sampled := Args.zero, rsp := some ⟨none, BitVec.ofNat 7 n, x⟩ }) ∧
    s.raise .invalidSeed =
      { s with
        sampled := Args.zero
        sticky := { s.sticky with invalidSeed := true }
        rsp := some ⟨some .invalidSeed, 0#7, 0#512⟩ } ∧
    s.raise .illegalCommand =
      { s with
        sampled := Args.zero
        sticky := { s.sticky with illegalCommand := true }
        rsp := some ⟨some .illegalCommand, 0#7, 0#512⟩ } ∧
    s.raise .unseeded =
      { s with
        sampled := Args.zero
        sticky := { s.sticky with unseeded := true }
        rsp := some ⟨some .unseeded, 0#7, 0#512⟩ } ∧
    [none, some Err.invalidSeed, some .illegalCommand, some .unseeded].map errCode = [0#2, 1#2, 2#2, 3#2]

/-- R274: whenever a command accepted in any state ends with an error, `S`, `SEEDED`, `sm` and `SM_SEEDED` keep
their values, the sticky bit of that error becomes 1 and the others stay, and the response carries its code
with no result. -/
def Obligations.ErrorsChangeOnlyTheirStickyBit : Prop :=
  ∀ (s t : State) (r : Request) (x : Response) (e : Err),
    s.accept r = .next t → t.rsp = some x → x.err = some e →
    t.gen = s.gen ∧ t.seeded = s.seeded ∧ t.sm = s.sm ∧ t.smSeeded = s.smSeeded ∧ t.params = s.params ∧
    t.sticky.invalidSeed = (s.sticky.invalidSeed || e == .invalidSeed) ∧
    t.sticky.illegalCommand = (s.sticky.illegalCommand || e == .illegalCommand) ∧
    t.sticky.unseeded = (s.sticky.unseeded || e == .unseeded) ∧
    x.ports = ((match e with | .invalidSeed => 1#2 | .illegalCommand => 2#2 | .unseeded => 3#2), 0#7, 0#512)

/-- R273: each command that reads `S` raises `UNSEEDED` while `SEEDED = 0` (`jump` where it is legal), and
each that reads `sm` while `SM_SEEDED = 0`. -/
def Obligations.UnwrittenReadsRaiseUnseeded : Prop :=
  ∀ (s : State) (i : Instr), i.wf s.gen.variant s.params = true →
    (readsWords i = true → s.seeded = false → exec i s = .next (s.raise .unseeded)) ∧
    (readsSm i = true → s.smSeeded = false → exec i s = .next (s.raise .unseeded))

/-- R275, R276, R274: a command accepted in any state gives the response the table of R276 gives: the error it
names, checked in the order of R275 and raised with no other effect, or `OK`. The table is the spec's own
inference. -/
def Obligations.ErrorOutcomesByCommand : Prop :=
  ∀ (s : State) (r : Request), ∃ t x, s.accept r = .next t ∧ t.rsp = some x ∧ x.err = expectedError s r ∧
    ∀ e, expectedError s r = some e → t = State.raise { s with sampled := r.args, offered := none } e

/-! ## Seed expander -/

/-- R105: `sm_seed` loads the counter from `arg64`, sets `SM_SEEDED`, and changes nothing else. -/
def Obligations.SmSeedLoadsCounter : Prop :=
  ∀ s : State,
    decode s.gen.variant s.params 0x10#8 = some .smSeed ∧
    exec .smSeed s = .next (State.respond { s with sm := some s.sampled.arg64 } 0 0#512)

/-- R100, R101, R102, R106: `sm_next` adds `GAMMA` to the counter and returns the three-round mix of the new
counter; it raises `UNSEEDED` while `SM_SEEDED = 0`. Nothing else changes. -/
def Obligations.SmNextDrawsFromCounter : Prop :=
  ∀ s : State,
    decode s.gen.variant s.params 0x11#8 = some .smNext ∧
    (s.sm = none → exec .smNext s = .next (s.raise .unseeded)) ∧
    ∀ c, s.sm = some c →
      let c' := c + 0x9E3779B97F4A7C15#64
      let z1 := (c' ^^^ (c' >>> 30)) * 0xBF58476D1CE4E5B9#64
      let z2 := (z1 ^^^ (z1 >>> 27)) * 0x94D049BB133111EB#64
      exec .smNext s = .next
        (State.respond { s with sm := some c' } 8 ((z2 ^^^ (z2 >>> 31)).setWidth 512))

/-- R104(b), (c): the mix is a bijection on 64-bit words, and `mix(0) = 0`. The spec infers both. -/
def Obligations.MixIsABijectionFixingZero : Prop := Function.Bijective mix ∧ mix 0#64 = 0#64

/-- R103: draw `i + 1` of an expansion is the mix of the counter plus `i + 1` increments, and after `k` draws
the counter has advanced by `k` increments. The closed form is the spec's own inference. -/
def Obligations.ExpansionDrawsAndCounter : Prop :=
  ∀ (c : Word64) (k : Nat),
    (expand c k).2 = c + BitVec.ofNat 64 k * gamma ∧
    ∀ i (h : i < k), (expand c k).1[i] = mix (c + BitVec.ofNat 64 (i + 1) * gamma)

/-! ## Construction -/

/-- R61, R180, R181: `seed_bytes` raises `INVALID_SEED` when the `L` seed bytes are all zero; otherwise word
`i` is the `W` bits of `argseed` from bit `i·W` on, which is bytes `i·WB` to `i·WB+WB-1`, least significant
first. Nothing else changes. -/
def Obligations.SeedBytesDecodesOrRejects : Prop :=
  ∀ s : State,
    decode s.gen.variant s.params 0x20#8 = some .seedBytes ∧
    (s.sampled.argseed.setWidth (8 * s.gen.variant.L) = 0 →
      exec .seedBytes s = .next (s.raise .invalidSeed)) ∧
    (s.sampled.argseed.setWidth (8 * s.gen.variant.L) ≠ 0 →
      exec .seedBytes s = .next (State.respond
        { s with
          gen := ⟨s.gen.variant, some (Vector.ofFn fun i =>
            s.sampled.argseed.extractLsb' (i.val * s.gen.variant.W) s.gen.variant.W)⟩ } 0 0#512))

/-- R90, R61, R181: the line `seed_bytes words(w0, ..., wN-1)` assembles on every instance, whatever instance
it names, and the block it is offered to holds exactly those words afterwards, if they are not all zero. -/
def Obligations.AssembledSeedWordsBecomeTheState : Prop :=
  ∀ (s : State) (w : Words s.gen.variant) (inst : Option (List Char)),
    w ≠ zeroWords s.gen.variant.W s.gen.variant.N →
    ∃ r t, assemble s.gen.variant ⟨inst, .seedBytes, .words (w.toList.map BitVec.toNat)⟩ = some r ∧
      s.accept r = .next t ∧ t.gen = ⟨s.gen.variant, some w⟩ ∧ t.rsp = some ⟨none, 0#7, 0#512⟩

/-- R182, R183: `seed_u64` writes the expansion of `arg64` to `S`, word by word as R182 gives it, raises no
error, and leaves `sm` and all else unchanged. -/
def Obligations.SeedU64WritesExpansion : Prop :=
  ∀ s : State,
    decode s.gen.variant s.params 0x21#8 = some .seedU64 ∧
    exec .seedU64 s = .next (State.respond
      { s with
        gen := ⟨s.gen.variant, some (Vector.ofFn fun i =>
          expandedWord s.gen.variant s.params s.sampled.arg64 i.val)⟩ } 0 0#512)

/-- R182, R184: `seed_sm` writes the expansion of `sm` to `S` and advances `sm` by the draws taken, `N` or
under `BYTEFILL` on a 32-bit variant `N/2`; it raises `UNSEEDED` while `SM_SEEDED = 0`. -/
def Obligations.SeedSmWritesExpansionAndAdvances : Prop :=
  ∀ s : State,
    decode s.gen.variant s.params 0x22#8 = some .seedSm ∧
    (s.sm = none → exec .seedSm s = .next (s.raise .unseeded)) ∧
    ∀ c, s.sm = some c → exec .seedSm s = .next (State.respond
      { s with
        gen := ⟨s.gen.variant, some (Vector.ofFn fun i =>
          expandedWord s.gen.variant s.params c i.val)⟩
        sm := some (c + BitVec.ofNat 64 (drawsTaken s.gen.variant s.params) * gamma) } 0 0#512)

/-- R185(a), (b), (c): the expansion of no counter value is the all-zero state on a 64-bit variant, nor on
variants 8 and 9 under `BYTEFILL`; on variants 6 and 7 under `BYTEFILL` exactly one counter value gives
it. The spec infers all three. -/
def Obligations.WhenExpansionIsAllZero : Prop :=
  ∀ (v : Variant) (p : Params) (c : Word64),
    (v.W = 64 → (expandState v p c).1 ≠ zeroWords v.W v.N) ∧
    (v = .xoshiro128Plus ∨ v = .xoshiro128StarStar → p.seedU64W32Mode = .byteFill →
      (expandState v p c).1 ≠ zeroWords v.W v.N) ∧
    (v = .xoroshiro64Star ∨ v = .xoroshiro64StarStar → p.seedU64W32Mode = .byteFill →
      ((expandState v p c).1 = zeroWords v.W v.N ↔ c = 0x61C8864680B583EB#64))

/-! ## State update -/

/-- R128: `step` applies `T` to `S` and returns nothing; it raises `UNSEEDED` while `SEEDED = 0`. Nothing else
changes. -/
def Obligations.StepCommandAppliesUpdate : Prop :=
  ∀ s : State,
    decode s.gen.variant s.params 0x30#8 = some .step ∧
    (s.gen.words = none → exec .step s = .next (s.raise .unseeded)) ∧
    ∀ w, s.gen.words = some w → exec .step s = .next
      (State.respond { s with gen := ⟨s.gen.variant, some (advance s.gen.variant w)⟩ } 0 0#512)

/-- R121 to R125: the update map of every variant, in the closed form over the words before the step that
R122, R123 and R124 give, with the library's rotation. Those of R123 and R124 are the spec's own
inference. -/
def Obligations.UpdateMapClosedForms : Prop :=
  (∀ a b : BitVec 64,
    let n := #v[a.rotateLeft 24 ^^^ (a ^^^ b) ^^^ ((a ^^^ b) <<< 16), (a ^^^ b).rotateLeft 37]
    advance .xoroshiro128Plus #v[a, b] = n ∧ advance .xoroshiro128StarStar #v[a, b] = n) ∧
  (∀ a b c d : BitVec 64,
    let n := #v[a ^^^ b ^^^ d, a ^^^ b ^^^ c, a ^^^ c ^^^ (b <<< 17), (b ^^^ d).rotateLeft 45]
    advance .xoshiro256Plus #v[a, b, c, d] = n ∧ advance .xoshiro256StarStar #v[a, b, c, d] = n) ∧
  (∀ a b c d e f g h : BitVec 64,
    let n := #v[a ^^^ g, a ^^^ b ^^^ c, a ^^^ c, d ^^^ e, b ^^^ e ^^^ f, b ^^^ f,
      d ^^^ g ^^^ h ^^^ (b <<< 11), (d ^^^ h).rotateLeft 21]
    advance .xoshiro512Plus #v[a, b, c, d, e, f, g, h] = n ∧
      advance .xoshiro512StarStar #v[a, b, c, d, e, f, g, h] = n) ∧
  (∀ a b : BitVec 32,
    let n := #v[a.rotateLeft 26 ^^^ (a ^^^ b) ^^^ ((a ^^^ b) <<< 9), (a ^^^ b).rotateLeft 13]
    advance .xoroshiro64Star #v[a, b] = n ∧ advance .xoroshiro64StarStar #v[a, b] = n) ∧
  (∀ a b c d : BitVec 32,
    let n := #v[a ^^^ b ^^^ d, a ^^^ b ^^^ c, a ^^^ c ^^^ (b <<< 9), (b ^^^ d).rotateLeft 11]
    advance .xoshiro128Plus #v[a, b, c, d] = n ∧ advance .xoshiro128StarStar #v[a, b, c, d] = n)

/-- R126: the update map is linear over GF(2), fixes the all-zero state, and is a bijection. The spec infers
linearity and bijectivity. -/
def Obligations.UpdateMapIsALinearBijection : Prop :=
  ∀ v : Variant,
    (∀ x y : Words v, advance v (xorWords x y) = xorWords (advance v x) (advance v y)) ∧
    advance v (zeroWords v.W v.N) = zeroWords v.W v.N ∧
    Function.Bijective (advance v)

/-- R127: the characteristic polynomial the table gives vanishes at the update map: the exclusive or of
`T^i(S)` over every `i` whose coefficient is 1 is the all-zero state, for every `S`. The table is the spec's
own inference. -/
def Obligations.UpdateMapSatisfiesItsPolynomial : Prop :=
  ∀ (v : Variant) (w : Words v),
    ((List.range (v.SB + 1)).filter fun i => (characteristicPoly v).testBit i).foldl
      (fun acc i => xorWords acc ((advance v)^[i] w)) (zeroWords v.W v.N) = zeroWords v.W v.N

/-- R127: on variants 6 and 7 every nonzero state returns after 2^64 - 1 steps and no sooner. The spec's own
inference. -/
def Obligations.FullPeriodOf64BitStates : Prop :=
  ∀ (v : Variant) (w : Words v), v = .xoroshiro64Star ∨ v = .xoroshiro64StarStar →
    w ≠ zeroWords v.W v.N →
    (advance v)^[2 ^ 64 - 1] w = w ∧ ∀ k, 0 < k → k < 2 ^ 64 - 1 → (advance v)^[k] w ≠ w

/-- R127: on variants 0, 1, 8 and 9 every nonzero state returns after 2^128 - 1 steps and no sooner. The
spec's own inference. -/
def Obligations.FullPeriodOf128BitStates : Prop :=
  ∀ (v : Variant) (w : Words v),
    v ∈ [.xoroshiro128Plus, .xoroshiro128StarStar, .xoshiro128Plus, .xoshiro128StarStar] →
    w ≠ zeroWords v.W v.N →
    (advance v)^[2 ^ 128 - 1] w = w ∧ ∀ k, 0 < k → k < 2 ^ 128 - 1 → (advance v)^[k] w ≠ w

/-! ## Scramblers and draws -/

/-- R150 to R155: the scrambler of every variant over the words before the step, with the library's
rotation. -/
def Obligations.ScramblerOfEveryVariant : Prop :=
  (∀ a b : BitVec 64, scramble .xoroshiro128Plus #v[a, b] = a + b ∧
    scramble .xoroshiro128StarStar #v[a, b] = (a * 5).rotateLeft 7 * 9) ∧
  (∀ a b c d : BitVec 64, scramble .xoshiro256Plus #v[a, b, c, d] = a + d ∧
    scramble .xoshiro256StarStar #v[a, b, c, d] = (b * 5).rotateLeft 7 * 9) ∧
  (∀ a b c d e f g h : BitVec 64, scramble .xoshiro512Plus #v[a, b, c, d, e, f, g, h] = a + c ∧
    scramble .xoshiro512StarStar #v[a, b, c, d, e, f, g, h] = (b * 5).rotateLeft 7 * 9) ∧
  (∀ a b : BitVec 32, scramble .xoroshiro64Star #v[a, b] = a * 0x9E3779BB#32 ∧
    scramble .xoroshiro64StarStar #v[a, b] = (a * 0x9E3779BB#32).rotateLeft 5 * 5) ∧
  (∀ a b c d : BitVec 32, scramble .xoshiro128Plus #v[a, b, c, d] = a + d ∧
    scramble .xoshiro128StarStar #v[a, b, c, d] = (b * 5).rotateLeft 7 * 9)

/-- R157: `scramble` returns the scrambler output in `WB` bytes and leaves `S` and all else unchanged; it
raises `UNSEEDED` while `SEEDED = 0`. -/
def Obligations.ScrambleCommandLeavesState : Prop :=
  ∀ s : State,
    decode s.gen.variant s.params 0x31#8 = some .scramble ∧
    (s.gen.words = none → exec .scramble s = .next (s.raise .unseeded)) ∧
    ∀ w, s.gen.words = some w → exec .scramble s = .next
      (s.respond s.gen.variant.WB ((scramble s.gen.variant w).setWidth 512))

/-- R156, R158: `next` returns the scramble of the words before the step and advances `S` by one step; it
raises `UNSEEDED` while `SEEDED = 0`. Nothing else changes. -/
def Obligations.NextReturnsPreStepScramble : Prop :=
  ∀ s : State,
    decode s.gen.variant s.params 0x32#8 = some .next ∧
    (s.gen.words = none → exec .next s = .next (s.raise .unseeded)) ∧
    ∀ w, s.gen.words = some w → exec .next s = .next
      (State.respond { s with gen := ⟨s.gen.variant, some (advance s.gen.variant w)⟩ } s.gen.variant.WB
        ((scramble s.gen.variant w).setWidth 512))

/-- R159: `next_u32` advances `S` by one step and returns in 4 bytes the native draw itself for `W = 32`, its
high half on the 64-bit "+" variants, and on the 64-bit "**" variants the half `U32_HALF_SS` names; it raises
`UNSEEDED` while `SEEDED = 0`. -/
def Obligations.NextU32TakesItsHalf : Prop :=
  ∀ s : State,
    decode s.gen.variant s.params 0x33#8 = some .nextU32 ∧
    (s.gen.words = none → exec .nextU32 s = .next (s.raise .unseeded)) ∧
    ∀ w, s.gen.words = some w →
      let x := (scramble s.gen.variant w).toNat
      let high := s.gen.variant = .xoroshiro128Plus ∨ s.gen.variant = .xoshiro256Plus ∨
        s.gen.variant = .xoshiro512Plus ∨ (s.gen.variant.W = 64 ∧ s.params.u32HalfSS = .high)
      exec .nextU32 s = .next
        (State.respond { s with gen := ⟨s.gen.variant, some (advance s.gen.variant w)⟩ } 4
          (BitVec.ofNat 512 (if high then x / 2 ^ 32 else x % 2 ^ 32)))

/-- R160: `next_u64` on a 64-bit variant is one native draw; on a 32-bit variant it is two, paired in the
order `U64_PAIR_ORDER` names, and `S` advances by exactly two steps. The result has 8 bytes; it raises
`UNSEEDED` while `SEEDED = 0`. -/
def Obligations.NextU64PairsDraws : Prop :=
  ∀ s : State,
    decode s.gen.variant s.params 0x34#8 = some .nextU64 ∧
    (s.gen.words = none → exec .nextU64 s = .next (s.raise .unseeded)) ∧
    ∀ w, s.gen.words = some w →
      let w1 := advance s.gen.variant w
      let x1 := (scramble s.gen.variant w).toNat
      let x2 := (scramble s.gen.variant w1).toNat
      (s.gen.variant.W = 64 → exec .nextU64 s = .next
        (State.respond { s with gen := ⟨s.gen.variant, some w1⟩ } 8 (BitVec.ofNat 512 x1))) ∧
      (s.gen.variant.W = 32 → exec .nextU64 s = .next
        (State.respond { s with gen := ⟨s.gen.variant, some (advance s.gen.variant w1)⟩ } 8
          (BitVec.ofNat 512
            (if s.params.u64PairOrder = .lowFirst then x2 * 2 ^ 32 + x1 else x1 * 2 ^ 32 + x2))))

/-- R200, R201, R204(a), (b): `fill_bytes n` on a seeded block issues `k = ceil(n / WB)` draws; its buffer is
the first `n` bytes of their little-endian concatenation; it leaves the block as `k` commands `next` leave it,
with `S` advanced by exactly `k` steps and the rest unchanged. The spec infers it from R200. -/
def Obligations.FillBytesIsConcatenatedDraws : Prop :=
  ∀ (s : State) (w : Words s.gen.variant) (n : Nat), s.gen.words = some w →
    let k := (n + s.gen.variant.WB - 1) / s.gen.variant.WB
    ∃ t xs, s.fillBytes n = some (.ok (((List.range k).flatMap fun i =>
        leBytes (scramble s.gen.variant ((advance s.gen.variant)^[i] w))).take n), t) ∧
      s.runCommands (List.replicate k (.plain .next)) = some (xs, t) ∧ xs.length = k ∧
      t.gen = ⟨s.gen.variant, some ((advance s.gen.variant)^[k] w)⟩ ∧
      t.params = s.params ∧ t.sm = s.sm ∧ t.sticky = s.sticky

/-- R200, R202, R203: `fill_bytes 0` and `try_fill_bytes 0` issue no command in any state; a longer fill of an
unseeded block fails at its first `next` with `UNSEEDED`. R202 is the spec's own inference. -/
def Obligations.FillOfNothingAndOfAnUnseededBlock : Prop :=
  ∀ s : State,
    s.fillBytes 0 = some (.ok [], s) ∧ s.tryFillBytes 0 = some (.ok [], s) ∧
    (s.gen.words = none → ∀ n, 0 < n →
      ∃ t, s.fillBytes n = some (.error .unseeded, t) ∧ t.gen = s.gen ∧ t.sm = s.sm ∧
        t.sticky = s.sticky.record .unseeded)

/-! ## Jump -/

/-- R224, R225, R272: `jump` replaces `S` by `jump_state(S)` and returns nothing; it raises `UNSEEDED` while
`SEEDED = 0`. Nothing else changes. On an instance without a jump the decoder never yields `jump`; that `exec`
then raises `ILLEGAL_COMMAND` for it is the model's choice (log entry 13). -/
def Obligations.JumpCommandReplacesState : Prop :=
  ∀ s : State,
    decode s.gen.variant s.params 0x40#8 = (if jumpPresent s.gen.variant s.params then some .jump else none) ∧
    (jumpPresent s.gen.variant s.params = false → exec .jump s = .next (s.raise .illegalCommand)) ∧
    (jumpPresent s.gen.variant s.params = true → s.gen.words = none →
      exec .jump s = .next (s.raise .unseeded)) ∧
    ∀ w, jumpPresent s.gen.variant s.params = true → s.gen.words = some w → exec .jump s = .next
      (State.respond { s with gen := ⟨s.gen.variant, some (jumpState s.gen.variant s.params w)⟩ } 0 0#512)

/-- R15, R221, R226(a), R227: `jump_state(S)` is the exclusive or of `T^m(S)` over every `m` whose
coefficient, bit `m mod W` of word `J[m div W]`, is 1. The spec infers it from R221. -/
def Obligations.JumpIsItsPolynomialInTheUpdate : Prop :=
  ∀ (v : Variant) (p : Params) (w : Words v),
    jumpState v p w =
      ((List.range v.SB).filter fun m => ((jumpPoly v p).toList.getD (m / v.W) 0#v.W).getLsbD (m % v.W)).foldl
        (fun acc m => xorWords acc ((advance v)^[m] w)) (zeroWords v.W v.N)

/-- R226(b), (c), E6 of spec/95_test_vectors.md: `jump_state` is linear, fixes the all-zero state, and
commutes with the single step for every state, variant and parameter value. The spec infers these. -/
def Obligations.JumpIsLinearAndCommutesWithStep : Prop :=
  ∀ (v : Variant) (p : Params),
    (∀ x y : Words v, jumpState v p (xorWords x y) = xorWords (jumpState v p x) (jumpState v p y)) ∧
    jumpState v p (zeroWords v.W v.N) = zeroWords v.W v.N ∧
    ∀ w : Words v, jumpState v p (advance v w) = advance v (jumpState v p w)

/-- R224: on variants 6 and 7, `ABSENT` makes word 0x40 illegal and `STATUS.JUMP_PRESENT` 0; `ONE_STEP_EQUIV`
makes it `jump`, with `STATUS.JUMP_PRESENT` 1, and the command then does exactly what `step` does. -/
def Obligations.JumpOfXoroshiro64 : Prop :=
  ∀ s : State, s.gen.variant = .xoroshiro64Star ∨ s.gen.variant = .xoroshiro64StarStar →
    (s.params.xoroshiro64Jump = .absent →
      decode s.gen.variant s.params 0x40#8 = none ∧ s.statusWord.getLsbD 24 = false) ∧
    (s.params.xoroshiro64Jump = .oneStepEquiv →
      decode s.gen.variant s.params 0x40#8 = some .jump ∧ s.statusWord.getLsbD 24 = true ∧
      exec .jump s = exec .step s)

/-- R220, R226(a): on variants 0 and 1 `jump` replaces `S` by `T^(2^64)(S)`, and on variants 8 and 9 too. The
distance is the spec's own inference from the tables of R222. -/
def Obligations.JumpDistanceOf128BitStates : Prop :=
  ∀ (s : State) (w : Words s.gen.variant),
    s.gen.variant ∈ [.xoroshiro128Plus, .xoroshiro128StarStar, .xoshiro128Plus, .xoshiro128StarStar] →
    s.gen.words = some w → exec .jump s = .next
      (State.respond { s with gen := ⟨s.gen.variant, some ((advance s.gen.variant)^[2 ^ 64] w)⟩ } 0 0#512)

/-- R220, R223, R226(a): on variants 2 and 3 `jump` replaces `S` by `T^(2^128)(S)`, or by `T^(2^64)(S)` when
`XOSHIRO256_JUMP_LOG2 = 64`. The distance is the spec's own inference from the tables of R222. -/
def Obligations.JumpDistanceOfXoshiro256 : Prop :=
  ∀ (s : State) (w : Words s.gen.variant),
    s.gen.variant ∈ [.xoshiro256Plus, .xoshiro256StarStar] → s.gen.words = some w →
    let k := if s.params.xoshiro256JumpLog2 = .log128 then 128 else 64
    exec .jump s = .next
      (State.respond { s with gen := ⟨s.gen.variant, some ((advance s.gen.variant)^[2 ^ k] w)⟩ } 0 0#512)

/-- R220, R226(a): on variants 4 and 5 `jump` replaces `S` by `T^(2^256)(S)`. The distance is the spec's own
inference from the table of R222. -/
def Obligations.JumpDistanceOfXoshiro512 : Prop :=
  ∀ (s : State) (w : Words s.gen.variant),
    s.gen.variant ∈ [.xoshiro512Plus, .xoshiro512StarStar] → s.gen.words = some w →
    exec .jump s = .next
      (State.respond { s with gen := ⟨s.gen.variant, some ((advance s.gen.variant)^[2 ^ 256] w)⟩ } 0 0#512)

/-- R303, R226(e): on an instance with a jump, the set-up of parallel streams with one common `seed_u64`
leaves stream `k` at the common start advanced by `k` jumps, and leaves `sm` alone. R226(e) is the spec's
own inference. -/
def Obligations.StreamStartsItsNumberOfJumpsOn : Prop :=
  ∀ (s : State) (x : Word64) (k : Nat), jumpPresent s.gen.variant s.params = true →
    ∃ t, s.setUpStream ⟨0x21#8, { Args.zero with arg64 := x }⟩ k = some t ∧ t.sm = s.sm ∧
      t.gen = ⟨s.gen.variant, some ((jumpState s.gen.variant s.params)^[k]
        (expandState s.gen.variant s.params x).1)⟩

/-! ## Read-back -/

/-- R62, R83, R250: `read_state` returns `S` in `L` bytes: bits `i·W` to `i·W+W-1` of the result are word
`i`, every bit at or above `8·L` is 0, and nothing else changes; it raises `UNSEEDED` while `SEEDED = 0`. -/
def Obligations.ReadStateReturnsWords : Prop :=
  ∀ s : State,
    decode s.gen.variant s.params 0x50#8 = some .readState ∧
    (s.gen.words = none → exec .readState s = .next (s.raise .unseeded)) ∧
    ∀ w, s.gen.words = some w →
      ∃ d : Lanes, exec .readState s = .next (s.respond s.gen.variant.L d) ∧
        (∀ i (h : i < s.gen.variant.N), d.extractLsb' (i * s.gen.variant.W) s.gen.variant.W = w[i]) ∧
        d.toNat < 2 ^ (8 * s.gen.variant.L)

/-- R62, R68(c), R91: the bytes `read_state` returns, given to `seed_bytes` on any instance of the same
variant, restore `S` exactly when it is not all zero, and are rejected with `INVALID_SEED` when it is. -/
def Obligations.CloneRestoresANonzeroState : Prop :=
  ∀ (s t u : State) (x : Response), exec .readState s = .next t → t.rsp = some x → x.err = none →
    u.gen.variant = s.gen.variant → u.sampled.argseed = x.data →
    (s.nonzero = true → ∃ r, exec .seedBytes u = .next r ∧ r.gen = s.gen ∧ r.rsp = some ⟨none, 0#7, 0#512⟩) ∧
    (s.nonzero = false → exec .seedBytes u = .next (u.raise .invalidSeed))

/-! ## The whole machine -/

/-- R30, R33, R68: what each command leaves alone. Only the commands R30 names write `S`, only `sm_seed`,
`sm_next` and `seed_sm` write `sm`; `scramble`, `read_state` and `status` write neither; and no command touches
the parameters, the offer or the inputs, or keeps its sampled ports. The last three fields are the model's own
(log entries 3, 5 and 6). -/
def Obligations.CommandFrames : Prop :=
  ∀ (i : Instr) (s t : State), exec i s = .next t →
    (writesWords i = false → t.gen = s.gen) ∧ (writesSm i = false → t.sm = s.sm) ∧
    t.gen.variant = s.gen.variant ∧ t.params = s.params ∧ t.sampled = Args.zero ∧ t.offered = s.offered ∧
    t.inputs = s.inputs

/-- R83: from any state whose response on offer is well formed, every step leaves such a state, and the response
the host takes at it is well formed. -/
def Obligations.StepKeepsResponsesWellFormed : Prop :=
  ∀ s t : State, s.inv = true → step s = .next t → t.inv = true ∧ ∀ x, s.output = some x → x.wf = true

/-- R83, R41: no response that is not well formed is on offer after reset, for every instance. -/
def Obligations.ResetHasWellFormedResponses : Prop :=
  ∀ (v : Variant) (p : Params), (State.resetOf v p).inv = true

/-- R32(b): on every variant `step`, `next`, `next_u32` and `next_u64` take a nonzero state to a nonzero
state, and an all-zero state to itself; so does `jump` on the all-zero state. The spec infers it. -/
def Obligations.ZeroStateIsNeitherReachedNorLeft : Prop :=
  ∀ (s t : State) (i : Instr),
    (i ∈ [.step, .next, .nextU32, .nextU64] → exec i s = .next t → s.nonzero = true → t.nonzero = true) ∧
    (i ∈ [.step, .next, .nextU32, .nextU64, .jump] → exec i s = .next t →
      s.gen.words = some (zeroWords s.gen.variant.W s.gen.variant.N) → t.gen = s.gen)

/-- R32, R185(a): on a 64-bit variant no step of any kind, `jump` and the seeding commands among them, makes
the all-zero state out of an unwritten or nonzero one. The spec infers the parts. -/
def Obligations.NoStepReachesZeroOn64BitVariants : Prop :=
  ∀ s t : State, s.gen.variant.W = 64 →
    s.gen.words ≠ some (zeroWords s.gen.variant.W s.gen.variant.N) → step s = .next t →
    t.gen.words ≠ some (zeroWords t.gen.variant.W t.gen.variant.N)

/-- R82(f), D27: an argument port the command does not use has no effect: two offers of one command word that
agree on the ports the command uses do the same to the block. -/
def Obligations.UnusedArgumentPortsHaveNoEffect : Prop :=
  ∀ (s t u : State) (a b : Request), sameOffer s.gen.variant a b = true →
    s.accept a = .next t → s.accept b = .next u → t.sameBlock u = true

/-- R302, R186, R37, R40: two blocks that agree on `S`, `sm`, the sticky bits and the waiting response, and are
driven alike, stay so: they stop alike and give the same responses, and nothing of the ports sampled earlier
has any influence. The spec infers it. -/
def Obligations.BlockDependsOnlyOnArchitecturalState : Prop :=
  ∀ s t : State, s.sameBlock t = true → s.inputs = t.inputs → s.offered = t.offered →
    s.output = t.output ∧
    match step s, step t with
    | .next s', .next t' =>
      s'.sameBlock t' = true ∧ s'.inputs = t'.inputs ∧ s'.offered = t'.offered
    | .fault a, .fault b => a = b
    | .refused a, .refused b => a = b
    | _, _ => False

/-- R72: a transaction on one instance leaves every other instance as it was. -/
def Obligations.InstancesAreIndependent : Prop :=
  ∀ (y z : System) (k j : Nat) (r : Request) (x : Response), y.transact k r = some (x, z) → j ≠ k →
    z.blocks[j]? = y.blocks[j]?

/-- R80, R307, R40: a run over clock edges that no reset cuts and that has ended is the run of its commands, one
step each: whenever the host delays its commands and its taking of responses, the responses are those of the
commands accepted, in command order, and the block ends in the state they leave. A run with a command offered
and never accepted has not ended here, the model's choice (log entry 19). -/
def Obligations.RunOverEdgesIsTheRunOfItsCommands : Prop :=
  ∀ (s : State) (z : Run), s.rsp = none → s.run = some z → z.ending = .answered →
    ∃ t, s.runCommands z.commands = some (z.responses, t) ∧ z.final.sameBlock t = true
end

