-- ==== Sys2Proof/Laws/Decode.lean ====
section
/-! SUPPORT. The decoding of every constructor, from its word written out bit by bit as
spec/30_encoding.md R84 and R85 give it: `UNIT` in the first four bits, `FUNC` in the last four. -/

namespace Sys2Proof.Laws

theorem opcode_smSeed : opcodeOf 0b00010000#8 = some .smSeed := by decide
theorem opcode_smNext : opcodeOf 0b00010001#8 = some .smNext := by decide
theorem opcode_seedBytes : opcodeOf 0b00100000#8 = some .seedBytes := by decide
theorem opcode_seedU64 : opcodeOf 0b00100001#8 = some .seedU64 := by decide
theorem opcode_seedSm : opcodeOf 0b00100010#8 = some .seedSm := by decide
theorem opcode_step : opcodeOf 0b00110000#8 = some .step := by decide
theorem opcode_scramble : opcodeOf 0b00110001#8 = some .scramble := by decide
theorem opcode_next : opcodeOf 0b00110010#8 = some .next := by decide
theorem opcode_nextU32 : opcodeOf 0b00110011#8 = some .nextU32 := by decide
theorem opcode_nextU64 : opcodeOf 0b00110100#8 = some .nextU64 := by decide
theorem opcode_jump : opcodeOf 0b01000000#8 = some .jump := by decide
theorem opcode_readState : opcodeOf 0b01010000#8 = some .readState := by decide
theorem opcode_status : opcodeOf 0b01010001#8 = some .status := by decide
theorem opcode_statusClr : opcodeOf 0b01010010#8 = some .statusClr := by decide

/-- Decoding is the opcode map followed by the check on `jump`. -/
theorem decode_eq_some {v : Variant} {p : Params} {cmd : Byte} {i : Instr} :
    decode v p cmd = some i ↔ opcodeOf cmd = some i ∧ i.wf v p = true := by
  unfold decode
  rcases opcodeOf cmd with _ | j
  · simp
  · by_cases hj : j.wf v p = true
    · simp only [hj, if_true, Option.some.injEq]
      constructor
      · rintro rfl
        exact ⟨rfl, hj⟩
      · exact And.left
    · simp only [hj, if_false, Option.some.injEq, reduceCtorEq, false_iff, not_and]
      rintro rfl
      exact hj

end Sys2Proof.Laws
end

