-- ==== Sys2Proof/Laws/State.lean ====
section
/-! SUPPORT. What each update of a state does to each of its fields: one lemma per field per update. -/

namespace Sys2Proof.Machine

@[simp] theorem State.setWords_gen (s : State) (w : Words s.gen.variant) : (s.setWords w).gen = ⟨s.gen.variant, some w⟩ :=
    rfl
@[simp] theorem State.setWords_params (s : State) (w : Words s.gen.variant) : (s.setWords w).params = s.params :=
    rfl
@[simp] theorem State.setWords_sm (s : State) (w : Words s.gen.variant) : (s.setWords w).sm = s.sm := rfl
@[simp] theorem State.setWords_sticky (s : State) (w : Words s.gen.variant) : (s.setWords w).sticky = s.sticky :=
    rfl
@[simp] theorem State.setWords_sampled (s : State) (w : Words s.gen.variant) : (s.setWords w).sampled = s.sampled :=
    rfl
@[simp] theorem State.setWords_rsp (s : State) (w : Words s.gen.variant) : (s.setWords w).rsp = s.rsp := rfl
@[simp] theorem State.setWords_offered (s : State) (w : Words s.gen.variant) : (s.setWords w).offered = s.offered :=
    rfl
@[simp] theorem State.setWords_inputs (s : State) (w : Words s.gen.variant) : (s.setWords w).inputs = s.inputs :=
    rfl

@[simp] theorem State.setSm_gen (s : State) (c : Word64) : (s.setSm c).gen = s.gen := rfl
@[simp] theorem State.setSm_params (s : State) (c : Word64) : (s.setSm c).params = s.params := rfl
@[simp] theorem State.setSm_sm (s : State) (c : Word64) : (s.setSm c).sm = some c := rfl
@[simp] theorem State.setSm_sticky (s : State) (c : Word64) : (s.setSm c).sticky = s.sticky := rfl
@[simp] theorem State.setSm_sampled (s : State) (c : Word64) : (s.setSm c).sampled = s.sampled := rfl
@[simp] theorem State.setSm_rsp (s : State) (c : Word64) : (s.setSm c).rsp = s.rsp := rfl
@[simp] theorem State.setSm_offered (s : State) (c : Word64) : (s.setSm c).offered = s.offered := rfl
@[simp] theorem State.setSm_inputs (s : State) (c : Word64) : (s.setSm c).inputs = s.inputs := rfl

@[simp] theorem State.respond_gen (s : State) (n : Nat) (x : Lanes) : (s.respond n x).gen = s.gen := rfl
@[simp] theorem State.respond_params (s : State) (n : Nat) (x : Lanes) : (s.respond n x).params = s.params :=
    rfl
@[simp] theorem State.respond_sm (s : State) (n : Nat) (x : Lanes) : (s.respond n x).sm = s.sm := rfl
@[simp] theorem State.respond_sticky (s : State) (n : Nat) (x : Lanes) : (s.respond n x).sticky = s.sticky :=
    rfl
@[simp] theorem State.respond_sampled (s : State) (n : Nat) (x : Lanes) : (s.respond n x).sampled = Args.zero :=
    rfl
@[simp] theorem State.respond_rsp (s : State) (n : Nat) (x : Lanes) : (s.respond n x).rsp = some ⟨none, BitVec.ofNat 7 n, x⟩ :=
    rfl
@[simp] theorem State.respond_offered (s : State) (n : Nat) (x : Lanes) : (s.respond n x).offered = s.offered :=
    rfl
@[simp] theorem State.respond_inputs (s : State) (n : Nat) (x : Lanes) : (s.respond n x).inputs = s.inputs :=
    rfl

@[simp] theorem State.raise_gen (s : State) (e : Err) : (s.raise e).gen = s.gen := rfl
@[simp] theorem State.raise_params (s : State) (e : Err) : (s.raise e).params = s.params := rfl
@[simp] theorem State.raise_sm (s : State) (e : Err) : (s.raise e).sm = s.sm := rfl
@[simp] theorem State.raise_sticky (s : State) (e : Err) : (s.raise e).sticky = s.sticky.record e := rfl
@[simp] theorem State.raise_sampled (s : State) (e : Err) : (s.raise e).sampled = Args.zero := rfl
@[simp] theorem State.raise_rsp (s : State) (e : Err) : (s.raise e).rsp = some (Response.error e) := rfl
@[simp] theorem State.raise_offered (s : State) (e : Err) : (s.raise e).offered = s.offered := rfl
@[simp] theorem State.raise_inputs (s : State) (e : Err) : (s.raise e).inputs = s.inputs := rfl

@[simp] theorem State.applyReset_gen (s : State) : (s.applyReset).gen = ⟨s.gen.variant, none⟩ := rfl
@[simp] theorem State.applyReset_params (s : State) : (s.applyReset).params = s.params := rfl
@[simp] theorem State.applyReset_sm (s : State) : (s.applyReset).sm = none := rfl
@[simp] theorem State.applyReset_sticky (s : State) : (s.applyReset).sticky = Sticky.clear := rfl
@[simp] theorem State.applyReset_sampled (s : State) : (s.applyReset).sampled = Args.zero := rfl
@[simp] theorem State.applyReset_rsp (s : State) : (s.applyReset).rsp = none := rfl
@[simp] theorem State.applyReset_offered (s : State) : (s.applyReset).offered = none := rfl
@[simp] theorem State.applyReset_inputs (s : State) : (s.applyReset).inputs = s.inputs := rfl

@[simp] theorem State.take_gen (s : State) : s.take.gen = s.gen := rfl
@[simp] theorem State.take_params (s : State) : s.take.params = s.params := rfl
@[simp] theorem State.take_sm (s : State) : s.take.sm = s.sm := rfl
@[simp] theorem State.take_sticky (s : State) : s.take.sticky = s.sticky := rfl
@[simp] theorem State.take_sampled (s : State) : s.take.sampled = s.sampled := rfl
@[simp] theorem State.take_rsp (s : State) : s.take.rsp = none := rfl
@[simp] theorem State.take_offered (s : State) : s.take.offered = s.offered := rfl
@[simp] theorem State.take_inputs (s : State) : s.take.inputs = s.inputs := rfl

@[simp] theorem State.noteOffer_gen (s : State) (r : Request) : (s.noteOffer r).gen = s.gen := rfl
@[simp] theorem State.noteOffer_params (s : State) (r : Request) : (s.noteOffer r).params = s.params := rfl
@[simp] theorem State.noteOffer_sm (s : State) (r : Request) : (s.noteOffer r).sm = s.sm := rfl
@[simp] theorem State.noteOffer_sticky (s : State) (r : Request) : (s.noteOffer r).sticky = s.sticky := rfl
@[simp] theorem State.noteOffer_sampled (s : State) (r : Request) : (s.noteOffer r).sampled = s.sampled := rfl
@[simp] theorem State.noteOffer_rsp (s : State) (r : Request) : (s.noteOffer r).rsp = s.rsp := rfl
@[simp] theorem State.noteOffer_offered (s : State) (r : Request) : (s.noteOffer r).offered = some (s.offered.getD r) :=
    rfl
@[simp] theorem State.noteOffer_inputs (s : State) (r : Request) : (s.noteOffer r).inputs = s.inputs := rfl

@[simp] theorem State.setWords_seeded (s : State) (w : Words s.gen.variant) : (s.setWords w).seeded = true :=
    rfl
@[simp] theorem State.setSm_smSeeded (s : State) (c : Word64) : (s.setSm c).smSeeded = true := rfl
@[simp] theorem State.applyReset_seeded (s : State) : s.applyReset.seeded = false := rfl
@[simp] theorem State.applyReset_smSeeded (s : State) : s.applyReset.smSeeded = false := rfl

@[simp] theorem Sticky.record_invalidSeed (k : Sticky) (e : Err) :
    (k.record e).invalidSeed = (k.invalidSeed || e == .invalidSeed) := by cases e <;> simp [Sticky.record]
@[simp] theorem Sticky.record_illegalCommand (k : Sticky) (e : Err) :
    (k.record e).illegalCommand = (k.illegalCommand || e == .illegalCommand) := by
  cases e <;> simp [Sticky.record]
@[simp] theorem Sticky.record_unseeded (k : Sticky) (e : Err) :
    (k.record e).unseeded = (k.unseeded || e == .unseeded) := by cases e <;> simp [Sticky.record]

end Sys2Proof.Machine
end

