-- ==== Sys2Proof/Laws/Ops.lean ====
section
/-! SUPPORT. One lemma for each shared operation that says everything it can do; the meanings are taken
apart with these instead of being unfolded. -/

namespace Sys2Proof.Machine

/-- A command that reads `S` raises `UNSEEDED` on an unwritten file. -/
theorem State.withWords_none {s : State} (h : s.gen.words = none) (f : Words s.gen.variant → State) :
    s.withWords f = s.raise .unseeded := by
  unfold State.withWords
  split
  · rfl
  · simp_all

/-- A command that reads `S` does its own effect on a written file. -/
theorem State.withWords_some {s : State} {w : Words s.gen.variant} (h : s.gen.words = some w)
    (f : Words s.gen.variant → State) : s.withWords f = f w := by
  unfold State.withWords
  split
  · simp_all
  · simp_all

/-- Everything a command that reads `S` can do. -/
theorem State.withWords_cases (s : State) (f : Words s.gen.variant → State) :
    (s.gen.words = none ∧ s.withWords f = s.raise .unseeded) ∨
      ∃ w, s.gen.words = some w ∧ s.withWords f = f w := by
  rcases h : s.gen.words with _ | w
  · exact .inl ⟨rfl, State.withWords_none h f⟩
  · exact .inr ⟨w, rfl, State.withWords_some h f⟩

/-- A command that reads `sm` raises `UNSEEDED` on an unwritten counter. -/
theorem State.withSm_none {s : State} (h : s.sm = none) (f : Word64 → State) :
    s.withSm f = s.raise .unseeded := by simp [State.withSm, h]

/-- A command that reads `sm` does its own effect on a written counter. -/
theorem State.withSm_some {s : State} {c : Word64} (h : s.sm = some c) (f : Word64 → State) :
    s.withSm f = f c := by simp [State.withSm, h]

/-- Everything a command that reads `sm` can do. -/
theorem State.withSm_cases (s : State) (f : Word64 → State) :
    (s.sm = none ∧ s.withSm f = s.raise .unseeded) ∨ ∃ c, s.sm = some c ∧ s.withSm f = f c := by
  rcases h : s.sm with _ | c
  · exact .inl ⟨rfl, State.withSm_none h f⟩
  · exact .inr ⟨c, rfl, State.withSm_some h f⟩

/-- What accepting a command does: the decoded command's meaning, or `ILLEGAL_COMMAND`. -/
theorem State.accept_cases (s : State) (r : Request) :
    (decode s.gen.variant s.params r.cmd = none ∧
      s.accept r = .next (State.raise { s with sampled := r.args, offered := none } .illegalCommand)) ∨
      ∃ i, decode s.gen.variant s.params r.cmd = some i ∧
        s.accept r = exec i { s with sampled := r.args, offered := none } := by
  unfold State.accept
  rcases h : decode s.gen.variant s.params r.cmd with _ | i
  · exact .inl ⟨rfl, by simp only [h]⟩
  · exact .inr ⟨i, rfl, by simp only [h]⟩

/-- Every command answers a next state: no error stops the block (R270). -/
theorem exec_answers_next (i : Instr) (s : State) : ∃ t, exec i s = .next t := by
  cases i <;> exact ⟨_, rfl⟩

/-- Every command ends with a response on offer and touches neither the configuration nor the host's side. -/
theorem exec_responds {i : Instr} {s t : State} (h : exec i s = .next t) :
    (∃ x, t.rsp = some x) ∧ t.gen.variant = s.gen.variant ∧ t.params = s.params ∧ t.offered = s.offered ∧
      t.inputs = s.inputs := by
  have words : ∀ f : Words s.gen.variant → State, (∀ w, (∃ x, (f w).rsp = some x) ∧
      (f w).gen.variant = s.gen.variant ∧ (f w).params = s.params ∧ (f w).offered = s.offered ∧
      (f w).inputs = s.inputs) → (∃ x, (s.withWords f).rsp = some x) ∧
      (s.withWords f).gen.variant = s.gen.variant ∧ (s.withWords f).params = s.params ∧
      (s.withWords f).offered = s.offered ∧ (s.withWords f).inputs = s.inputs := by
    intro f hf
    rcases s.withWords_cases f with ⟨_, e⟩ | ⟨w, _, e⟩
    · rw [e]; exact ⟨⟨_, rfl⟩, rfl, rfl, rfl, rfl⟩
    · rw [e]; exact hf w
  have counter : ∀ f : Word64 → State, (∀ c, (∃ x, (f c).rsp = some x) ∧
      (f c).gen.variant = s.gen.variant ∧ (f c).params = s.params ∧ (f c).offered = s.offered ∧
      (f c).inputs = s.inputs) → (∃ x, (s.withSm f).rsp = some x) ∧
      (s.withSm f).gen.variant = s.gen.variant ∧ (s.withSm f).params = s.params ∧
      (s.withSm f).offered = s.offered ∧ (s.withSm f).inputs = s.inputs := by
    intro f hf
    rcases s.withSm_cases f with ⟨_, e⟩ | ⟨c, _, e⟩
    · rw [e]; exact ⟨⟨_, rfl⟩, rfl, rfl, rfl, rfl⟩
    · rw [e]; exact hf c
  cases i with
  | smNext | seedSm => cases h; exact counter _ fun _ => ⟨⟨_, rfl⟩, rfl, rfl, rfl, rfl⟩
  | step | scramble | next | nextU32 | nextU64 | readState =>
    cases h; exact words _ fun _ => ⟨⟨_, rfl⟩, rfl, rfl, rfl, rfl⟩
  | smSeed | seedU64 | status | statusClr => cases h; exact ⟨⟨_, rfl⟩, rfl, rfl, rfl, rfl⟩
  | seedBytes =>
    simp only [exec, execSeedBytes, Host.Outcome.next.injEq] at h
    subst h
    split <;> exact ⟨⟨_, rfl⟩, rfl, rfl, rfl, rfl⟩
  | jump =>
    simp only [exec, execJump, Host.Outcome.next.injEq] at h
    subst h
    split
    · exact words _ fun _ => ⟨⟨_, rfl⟩, rfl, rfl, rfl, rfl⟩
    · exact ⟨⟨_, rfl⟩, rfl, rfl, rfl, rfl⟩

/-- Accepting a command leaves a response on offer, no offer pending and the configuration as it was. -/
theorem State.accept_responds (s : State) (r : Request) :
    ∃ t, s.accept r = .next t ∧ (∃ x, t.rsp = some x) ∧ t.gen.variant = s.gen.variant ∧
      t.params = s.params ∧ t.offered = none ∧ t.inputs = s.inputs := by
  rcases s.accept_cases r with ⟨_, e⟩ | ⟨i, _, e⟩
  · exact ⟨_, e, ⟨_, rfl⟩, rfl, rfl, rfl, rfl⟩
  · obtain ⟨t, ht⟩ := exec_answers_next i { s with sampled := r.args, offered := none }
    obtain ⟨hx, hv, hp, ho, hi⟩ := exec_responds ht
    exact ⟨t, e.trans ht, hx, hv, hp, ho, hi⟩

/-- Two states agree on what the block computes from exactly when these five fields agree. -/
theorem State.sameBlock_iff {s t : State} : s.sameBlock t = true ↔
    s.gen = t.gen ∧ s.params = t.params ∧ s.sm = t.sm ∧ s.sticky = t.sticky ∧ s.rsp = t.rsp := by
  simp [State.sameBlock, and_assoc]

/-- `jump` on an instance that has one. -/
theorem exec_jump_present {s : State} (h : s.jumpPresent = true) : exec .jump s = .next (s.withWords fun w =>
    (s.setWords (jumpState s.gen.variant s.params w)).respond 0 0#512) := by simp [exec, execJump, h]

/-- `jump` on an instance that has none. -/
theorem exec_jump_absent {s : State} (h : s.jumpPresent = false) :
    exec .jump s = .next (s.raise .illegalCommand) := by simp [exec, execJump, h]

/-- A command computes from the architectural state and the sampled ports alone. -/
theorem exec_sameBlock (i : Instr) {s t : State} (hg : s.gen = t.gen) (hp : s.params = t.params)
    (hm : s.sm = t.sm) (hk : s.sticky = t.sticky) (ha : s.sampled = t.sampled) :
    ∃ s' t', exec i s = .next s' ∧ exec i t = .next t' ∧ s'.sameBlock t' = true := by
  obtain ⟨⟨v, w⟩, p, m, k, a, r, o, is⟩ := s
  obtain ⟨g', p', m', k', a', r', o', is'⟩ := t
  dsimp only at hg hp hm hk ha
  subst hg hp hm hk ha
  cases i with
  | smSeed | seedU64 | status | statusClr =>
    exact ⟨_, _, rfl, rfl, State.sameBlock_iff.2 ⟨rfl, rfl, rfl, rfl, rfl⟩⟩
  | smNext | seedSm =>
    cases m <;> exact ⟨_, _, rfl, rfl, State.sameBlock_iff.2 ⟨rfl, rfl, rfl, rfl, rfl⟩⟩
  | step | scramble | next | nextU32 | nextU64 | readState =>
    cases w <;> exact ⟨_, _, rfl, rfl, State.sameBlock_iff.2 ⟨rfl, rfl, rfl, rfl, rfl⟩⟩
  | seedBytes =>
    refine ⟨_, _, rfl, rfl, State.sameBlock_iff.2 ?_⟩
    dsimp only
    split <;> exact ⟨rfl, rfl, rfl, rfl, rfl⟩
  | jump =>
    cases hj : Sys2Proof.jumpPresent v p with
    | false =>
      exact ⟨_, _, exec_jump_absent hj, exec_jump_absent hj, State.sameBlock_iff.2 ⟨rfl, rfl, rfl, rfl, rfl⟩⟩
    | true =>
      refine ⟨_, _, exec_jump_present hj, exec_jump_present hj, State.sameBlock_iff.2 ?_⟩
      cases w <;> exact ⟨rfl, rfl, rfl, rfl, rfl⟩

/-- Accepting a command computes from the architectural state and the request alone. -/
theorem State.accept_sameBlock {s t : State} (r : Request) (hg : s.gen = t.gen) (hp : s.params = t.params)
    (hm : s.sm = t.sm) (hk : s.sticky = t.sticky) :
    ∃ s' t', s.accept r = .next s' ∧ t.accept r = .next t' ∧ s'.sameBlock t' = true := by
  rcases s.accept_cases r with ⟨d, e⟩ | ⟨i, d, e⟩ <;> rcases t.accept_cases r with ⟨d', e'⟩ | ⟨j, d', e'⟩ <;>
    rw [← hg, ← hp, d] at d'
  · refine ⟨_, _, e, e', State.sameBlock_iff.2 ⟨hg, hp, hm, ?_, rfl⟩⟩
    simp only [State.raise, hk]
  · cases d'
  · cases d'
  · cases d'
    obtain ⟨s', t', a, b, c⟩ := exec_sameBlock i
      (s := { s with sampled := r.args, offered := none }) (t := { t with sampled := r.args, offered := none })
      hg hp hm hk rfl
    exact ⟨s', t', e.trans a, e'.trans b, c⟩

/-- One command as one step is what accepting it leaves, with its response taken. -/
theorem State.transact_of_accept {s t : State} {r : Request} {x : Response} (h : s.accept r = .next t)
    (hx : t.rsp = some x) : s.transact r = some (x, t.take) := by simp [State.transact, h, hx]

/-- A command always answers: no command hangs or stops the block (R270). -/
theorem State.transact_answers (s : State) (r : Request) :
    ∃ x t, s.transact r = some (x, t) ∧ t.rsp = none ∧ t.gen.variant = s.gen.variant ∧
      t.params = s.params := by
  obtain ⟨t, h, ⟨x, hx⟩, hv, hp, _⟩ := s.accept_responds r
  exact ⟨x, t.take, State.transact_of_accept h hx, rfl, hv, hp⟩

@[simp] theorem State.runCommands_nil (s : State) : s.runCommands [] = some ([], s) := rfl

/-- A sequence that begins with a command that answers. -/
theorem State.runCommands_cons {s t u : State} {r : Request} {rs : List Request} {x : Response}
    {xs : List Response} (h : s.transact r = some (x, t)) (hs : t.runCommands rs = some (xs, u)) :
    s.runCommands (r :: rs) = some (x :: xs, u) := by simp [State.runCommands, h, hs]

/-- A sequence of commands always answers, one response each. -/
theorem State.runCommands_answers (s : State) (rs : List Request) :
    ∃ xs t, s.runCommands rs = some (xs, t) ∧ xs.length = rs.length ∧ t.gen.variant = s.gen.variant ∧
      t.params = s.params := by
  induction rs generalizing s with
  | nil => exact ⟨[], s, rfl, rfl, rfl, rfl⟩
  | cons r rs ih =>
    obtain ⟨x, t, h, _, hv, hp⟩ := s.transact_answers r
    obtain ⟨xs, u, hs, hl, hv', hp'⟩ := ih t
    exact ⟨x :: xs, u, State.runCommands_cons h hs, by simp [hl], hv'.trans hv, hp'.trans hp⟩

/-- With nothing interleaved, a procedure's command is a plain transaction. -/
@[simp] theorem State.issueAmong_nil (s : State) (r : Request) : s.issueAmong [] r = s.transact r := rfl

/-- With nothing interleaved, a repeated command is the sequence of its repetitions. -/
theorem State.repeatCommand_nil (r : Request) (k : Nat) (s : State) :
    State.repeatCommand r k [] s = s.runCommands (List.replicate k r) := by
  induction k generalizing s with
  | zero => rfl
  | succ k ih => simp only [State.repeatCommand, List.headD_nil, State.issueAmong_nil, List.tail_nil, ih,
      List.replicate_succ, State.runCommands]

/-- Everything one clock edge can do. -/
theorem State.edge_cases (s : State) (q : Slot) :
    (q.rst = true ∧ s.edge q = .next s.applyReset) ∨
    (q.rst = false ∧ s.breaksOffer q = true ∧ s.edge q = .fault .hostChangedOffer) ∨
    (q.rst = false ∧ s.breaksOffer q = false ∧ (∃ x, s.rsp = some x) ∧
      s.edge q = .next (
        let u := if q.cmdValid then s.noteOffer q.req else s
        if q.rspReady then u.take else u)) ∨
    (q.rst = false ∧ s.breaksOffer q = false ∧ s.rsp = none ∧ q.cmdValid = true ∧
      s.edge q = s.accept q.req) ∨
    (q.rst = false ∧ s.breaksOffer q = false ∧ s.rsp = none ∧ q.cmdValid = false ∧ s.edge q = .next s) := by
  unfold State.edge
  rcases hr : q.rst with _ | _
  · rcases hb : s.breaksOffer q with _ | _
    · rcases hx : s.rsp with _ | x
      · rcases hv : q.cmdValid with _ | _ <;> simp
      · simp
    · simp
  · simp

/-- A step with no edge left changes nothing; otherwise it is the next edge. -/
theorem step_nil {s : State} (h : s.inputs = []) : step s = .next s := by simp [step, State.clock, h]

theorem step_cons {s : State} {q : Slot} {qs : List Slot} (h : s.inputs = q :: qs) :
    step s = State.edge { s with inputs := qs } q := by simp [step, State.clock, h]

/-- A step with no edge left gives no response; otherwise its output is that of the edge. -/
theorem State.output_nil {s : State} (h : s.inputs = []) : s.output = none := by simp [State.output, h]

theorem State.output_cons {s : State} {q : Slot} {qs : List Slot} (h : s.inputs = q :: qs) :
    s.output = if s.rspValid q.rst && q.rspReady then s.rsp else none := by
  simp [State.output, State.edgeOutput, h]

end Sys2Proof.Machine
end

