-- ==== Sys2Proof/Laws/PerInstr.lean ====
section
/-! SUPPORT. A fact about every command as syntax, one lemma per constructor: its word's upper four bits are
its `UNIT`, one of the five units assigned, and the lower four its `FUNC` (spec/30_encoding.md R84). -/

namespace Sys2Proof.Laws

/-- The fields of the command word of `i`, and that its unit is one R84 assigns. -/
def CommandWord.Statement (i : Instr) : Prop :=
  (encode i).extractLsb' 4 4 = i.unit ∧ (encode i).extractLsb' 0 4 = i.func ∧
    1 ≤ i.unit.toNat ∧ i.unit.toNat ≤ 5

theorem CommandWord.smSeed : CommandWord.Statement .smSeed := by unfold CommandWord.Statement; decide
theorem CommandWord.smNext : CommandWord.Statement .smNext := by unfold CommandWord.Statement; decide
theorem CommandWord.seedBytes : CommandWord.Statement .seedBytes := by unfold CommandWord.Statement; decide
theorem CommandWord.seedU64 : CommandWord.Statement .seedU64 := by unfold CommandWord.Statement; decide
theorem CommandWord.seedSm : CommandWord.Statement .seedSm := by unfold CommandWord.Statement; decide
theorem CommandWord.step : CommandWord.Statement .step := by unfold CommandWord.Statement; decide
theorem CommandWord.scramble : CommandWord.Statement .scramble := by unfold CommandWord.Statement; decide
theorem CommandWord.next : CommandWord.Statement .next := by unfold CommandWord.Statement; decide
theorem CommandWord.nextU32 : CommandWord.Statement .nextU32 := by unfold CommandWord.Statement; decide
theorem CommandWord.nextU64 : CommandWord.Statement .nextU64 := by unfold CommandWord.Statement; decide
theorem CommandWord.jump : CommandWord.Statement .jump := by unfold CommandWord.Statement; decide
theorem CommandWord.readState : CommandWord.Statement .readState := by unfold CommandWord.Statement; decide
theorem CommandWord.status : CommandWord.Statement .status := by unfold CommandWord.Statement; decide
theorem CommandWord.statusClr : CommandWord.Statement .statusClr := by unfold CommandWord.Statement; decide

end Sys2Proof.Laws
end

