-- ==== Sys2Proof/Laws/Words.lean ====
section
/-! SUPPORT. The word-wise exclusive or makes the word lists of one shape a vector space over GF(2): the
laws of `xorWords` and `zeroWords` that linearity arguments use. -/

namespace Sys2Proof.Machine

@[simp] theorem xorWords_getElem {w n : Nat} (a b : Vector (BitVec w) n) (i : Nat) (h : i < n) :
    (xorWords a b)[i] = a[i] ^^^ b[i] := by simp [xorWords]

@[simp] theorem zeroWords_getElem {w n : Nat} (i : Nat) (h : i < n) : (zeroWords w n)[i] = 0#w := by
  simp [zeroWords]

theorem xorWords_comm {w n : Nat} (a b : Vector (BitVec w) n) : xorWords a b = xorWords b a :=
  Vector.ext fun i h => by simp [BitVec.xor_comm]

theorem xorWords_assoc {w n : Nat} (a b c : Vector (BitVec w) n) :
    xorWords (xorWords a b) c = xorWords a (xorWords b c) :=
  Vector.ext fun i h => by simp [BitVec.xor_assoc]

@[simp] theorem xorWords_self {w n : Nat} (a : Vector (BitVec w) n) : xorWords a a = zeroWords w n :=
  Vector.ext fun i h => by simp

@[simp] theorem zeroWords_xorWords {w n : Nat} (a : Vector (BitVec w) n) : xorWords (zeroWords w n) a = a :=
  Vector.ext fun i h => by simp

@[simp] theorem xorWords_zeroWords {w n : Nat} (a : Vector (BitVec w) n) : xorWords a (zeroWords w n) = a :=
  Vector.ext fun i h => by simp

end Sys2Proof.Machine
end

