-- ==== Sys2Proof/Laws/Polynomial.lean ====
section
/-! SUPPORT. Polynomials over GF(2) at a linear map, in the notation of spec/00_scope.md R15: a polynomial is
a number whose bit `i` is the coefficient of `x^i` (spec/41_lfsr_state_machine.md R127). Where a polynomial
`P` of degree `d` vanishes at `T`, the map `T^m` is `x^m mod P` at `T`, a polynomial of degree below `d` that
repeated squaring gives (the "repeated doubling" of spec/45_jump_operator.md R227); and the period of the
nonzero vectors can be read off powers of `x` modulo `P`. -/

namespace Sys2Proof.Laws

/-- `add` and `z` make `V` a vector space over GF(2). -/
structure XorSpace {V : Type} (add : V → V → V) (z : V) : Prop where
  comm : ∀ x y, add x y = add y x
  assoc : ∀ x y w, add (add x y) w = add x (add y w)
  self : ∀ x, add x x = z
  zero : ∀ x, add z x = x

/-- The word lists of one shape are such a space. -/
theorem xorSpace_words (w n : Nat) :
    XorSpace (V := Vector (BitVec w) n) Machine.xorWords (Machine.zeroWords w n) where
  comm := Machine.xorWords_comm
  assoc := Machine.xorWords_assoc
  self := Machine.xorWords_self
  zero := Machine.zeroWords_xorWords

section

variable {V : Type} (add : V → V → V) (z : V) (T : V → V)

/-- The sum of `T^i(x)` over every `i < n` where bit `i` of `r` is 1. -/
def evalAt : (n : Nat) → (r : Nat) → V → V
  | 0, _, _ => z
  | n + 1, r, x => add (if r.testBit 0 then x else z) (T (evalAt n (r / 2) x))

variable {add z T} (S : XorSpace add z) (hT : ∀ x y, T (add x y) = add (T x) (T y))

include S in
theorem XorSpace.add_zero (x : V) : add x z = x := by rw [S.comm, S.zero]

include S in
theorem XorSpace.add_add_add_comm (a b c d : V) : add (add a b) (add c d) = add (add a c) (add b d) := by
  rw [S.assoc, S.assoc, ← S.assoc b c d, S.comm b c, S.assoc c b d]

include S hT in
theorem linear_zero : T z = z := by
  have h := hT z z
  rw [S.self, S.self] at h
  exact h

include S hT in
theorem evalAt_zero (n : Nat) (x : V) : evalAt add z T n 0 x = z := by
  induction n with
  | zero => rfl
  | succ n ih => simp [evalAt, ih, linear_zero S hT, S.self]

include S hT in
/-- The exclusive or of two polynomials is their sum. -/
theorem evalAt_xor (n r q : Nat) (x : V) :
    evalAt add z T n (r ^^^ q) x = add (evalAt add z T n r x) (evalAt add z T n q x) := by
  induction n generalizing r q with
  | zero => simp [evalAt, S.self]
  | succ n ih =>
    simp only [evalAt, Nat.xor_div_two, ih, hT, Nat.testBit_xor]
    rw [S.add_add_add_comm]
    congr 1
    cases r.testBit 0 <;> cases q.testBit 0 <;> simp [S.self, S.zero, S.add_zero]

include S hT in
theorem evalAt_add (n r : Nat) (x y : V) :
    evalAt add z T n r (add x y) = add (evalAt add z T n r x) (evalAt add z T n r y) := by
  induction n generalizing r with
  | zero => simp [evalAt, S.self]
  | succ n ih =>
    simp only [evalAt, ih, hT]
    rw [S.add_add_add_comm]
    congr 1
    cases r.testBit 0 <;> simp [S.self]

include S hT in
theorem evalAt_map (n r : Nat) (x : V) : evalAt add z T n r (T x) = T (evalAt add z T n r x) := by
  induction n generalizing r with
  | zero => simp [evalAt, linear_zero S hT]
  | succ n ih =>
    simp only [evalAt, ih, hT]
    congr 1
    cases r.testBit 0 <;> simp [linear_zero S hT]

include S hT in
/-- Coefficients above the degree count for nothing. -/
theorem evalAt_succ_of_lt {n r : Nat} (h : r < 2 ^ n) (x : V) :
    evalAt add z T (n + 1) r x = evalAt add z T n r x := by
  induction n generalizing r with
  | zero =>
    obtain rfl : r = 0 := by omega
    simp [evalAt, S.self, linear_zero S hT]
  | succ n ih => rw [evalAt, ih (by omega : r / 2 < 2 ^ n), evalAt]

/-- Multiplication by `x`. -/
theorem evalAt_double (n r : Nat) (x : V) (S : XorSpace add z) :
    evalAt add z T (n + 1) (2 * r) x = T (evalAt add z T n r x) := by
  simp [evalAt, Nat.testBit_zero, S.zero]

/-- Multiplication by `x` modulo the polynomial `p` of degree `d`. -/
def timesX (p d r : Nat) : Nat := if (2 * r).testBit d then (2 * r) ^^^ p else 2 * r

/-- The product of `r` with the polynomial of the low `n` bits of `q`, modulo `p` of degree `d`. -/
def timesMod (p d r : Nat) : (n : Nat) → (q : Nat) → Nat
  | 0, _ => 0
  | n + 1, q =>
    let m := timesX p d (timesMod p d r n (q / 2))
    if q.testBit 0 then r ^^^ m else m

/-- `x^m` modulo `p` of degree `d`, by squaring, for `m` of at most `n` bits. -/
def xPowMod (p d : Nat) : (n : Nat) → (m : Nat) → Nat
  | 0, _ => 1
  | n + 1, m =>
    let h := xPowMod p d n (m / 2)
    let h2 := timesMod p d h d h
    if m.testBit 0 then timesX p d h2 else h2

theorem timesX_lt {p d r : Nat} (hp : p < 2 ^ (d + 1)) (hd : p.testBit d = true) (hr : r < 2 ^ d) :
    timesX p d r < 2 ^ d := by
  have h2 : 2 * r < 2 ^ (d + 1) := by rw [Nat.pow_succ]; omega
  have key : ∀ y, y < 2 ^ (d + 1) → y.testBit d = false → y < 2 ^ d := by
    intro y hy hb
    refine Nat.lt_pow_two_of_testBit y fun i hi => ?_
    rcases Nat.lt_or_ge d i with h | h
    · exact Nat.testBit_lt_two_pow (Nat.lt_of_lt_of_le hy (Nat.pow_le_pow_right (by decide) h))
    · obtain rfl : i = d := by omega
      exact hb
  unfold timesX
  split
  · rename_i h
    exact key _ (Nat.xor_lt_two_pow h2 hp) (by simp [Nat.testBit_xor, h, hd])
  · rename_i h
    exact key _ h2 (by simpa using h)

theorem timesMod_lt {p d r : Nat} (hp : p < 2 ^ (d + 1)) (hd : p.testBit d = true) (hr : r < 2 ^ d)
    (n q : Nat) : timesMod p d r n q < 2 ^ d := by
  induction n generalizing q with
  | zero => exact Nat.two_pow_pos d
  | succ n ih =>
    have hm := timesX_lt hp hd (ih (q / 2))
    simp only [timesMod]
    split
    · exact Nat.xor_lt_two_pow hr hm
    · exact hm

variable {p d : Nat} (hp : p < 2 ^ (d + 1)) (hd : p.testBit d = true)
  (hP : ∀ x, evalAt add z T (d + 1) p x = z)

include S hT hp hd hP in
/-- Where `p` vanishes at `T`, multiplication by `x` modulo `p` is one application of `T`. -/
theorem evalAt_timesX {r : Nat} (hr : r < 2 ^ d) (x : V) :
    evalAt add z T d (timesX p d r) x = T (evalAt add z T d r x) := by
  rw [← evalAt_succ_of_lt S hT (timesX_lt hp hd hr)]
  unfold timesX
  split
  · rw [evalAt_xor S hT, hP, S.add_zero, evalAt_double _ _ _ S]
  · rw [evalAt_double _ _ _ S]

include S hT hp hd hP in
/-- Where `p` vanishes at `T`, a product modulo `p` is the composition of its factors. -/
theorem evalAt_timesMod {r : Nat} (hr : r < 2 ^ d) (n q : Nat) (x : V) :
    evalAt add z T d (timesMod p d r n q) x = evalAt add z T n q (evalAt add z T d r x) := by
  induction n generalizing q with
  | zero => simp [timesMod, evalAt, evalAt_zero S hT]
  | succ n ih =>
    have hm := evalAt_timesX S hT hp hd hP (timesMod_lt hp hd hr n (q / 2)) x
    simp only [timesMod, evalAt]
    split
    · rw [evalAt_xor S hT, hm, ih]
    · rw [hm, ih, S.zero]

include S hT in
theorem evalAt_one (h1 : 1 ≤ d) (x : V) : evalAt add z T d 1 x = x := by
  obtain ⟨e, rfl⟩ : ∃ e, d = e + 1 := ⟨d - 1, by omega⟩
  simp [evalAt, evalAt_zero S hT, linear_zero S hT, S.add_zero]

include hp hd in
theorem xPowMod_lt (h1 : 1 ≤ d) (n m : Nat) : xPowMod p d n m < 2 ^ d := by
  induction n generalizing m with
  | zero => exact Nat.one_lt_two_pow (by omega)
  | succ n ih =>
    have h := timesMod_lt hp hd (ih (m / 2)) d (xPowMod p d n (m / 2))
    simp only [xPowMod]
    split
    · exact timesX_lt hp hd h
    · exact h

include S hT hp hd hP in
/-- Where `p` vanishes at `T`, the map `T^m` is `x^m mod p` at `T`. -/
theorem iterate_eq_evalAt (h1 : 1 ≤ d) {n m : Nat} (hm : m < 2 ^ n) (x : V) :
    T^[m] x = evalAt add z T d (xPowMod p d n m) x := by
  induction n generalizing m x with
  | zero =>
    obtain rfl : m = 0 := by omega
    simp [xPowMod, evalAt_one S hT h1]
  | succ n ih =>
    have hh : m / 2 < 2 ^ n := by rw [Nat.pow_succ] at hm; omega
    have hlt := xPowMod_lt hp hd h1 n (m / 2)
    have h2 : T^[2 * (m / 2)] x =
        evalAt add z T d (timesMod p d (xPowMod p d n (m / 2)) d (xPowMod p d n (m / 2))) x := by
      rw [evalAt_timesMod S hT hp hd hP hlt, ← ih hh, ← ih hh, ← Function.iterate_add_apply, Nat.two_mul]
    simp only [xPowMod]
    split
    · rename_i hb
      rw [evalAt_timesX S hT hp hd hP (timesMod_lt hp hd hlt _ _), ← h2,
        ← Function.iterate_succ_apply' T]
      congr 2
      have := Nat.testBit_zero (x := m)
      simp only [hb, true_eq_decide_iff] at this
      omega
    · rename_i hb
      rw [← h2]
      congr 2
      have := Nat.testBit_zero (x := m)
      simp only [hb, false_eq_decide_iff] at this
      omega

include S hT hp hd hP in
/-- Where `u` is an inverse of `x^m + 1` modulo `p`, the map `T^m` fixes only zero. -/
theorem fixed_of_inverse (h1 : 1 ≤ d) {n m u : Nat} (hm : m < 2 ^ n) (hu : u < 2 ^ d)
    (hinv : timesMod p d u d (xPowMod p d n m ^^^ 1) = 1) {x : V} (hx : T^[m] x = x) : x = z := by
  have key := evalAt_timesMod S hT hp hd hP hu d (xPowMod p d n m ^^^ 1) x
  have comm : ∀ k (y : V), T^[k] (evalAt add z T d u y) = evalAt add z T d u (T^[k] y) := by
    intro k
    induction k with
    | zero => intro y; rfl
    | succ k ih => intro y; rw [Function.iterate_succ_apply, ← evalAt_map S hT, ih, ← Function.iterate_succ_apply]
  rw [hinv, evalAt_one S hT h1, evalAt_xor S hT, evalAt_one S hT h1,
    ← iterate_eq_evalAt S hT hp hd hP h1 hm, comm, hx, S.self] at key
  exact key

include S hT hp hd hP in
/-- Every nonzero vector has period `M` where `x^M = 1` modulo `p` and, for every prime `q` that divides `M`,
`x^(M/q) + 1` has an inverse. -/
theorem minimalPeriod_eq (h1 : 1 ≤ d) {n M : Nat} (hM : M < 2 ^ n) (hone : xPowMod p d n M = 1)
    (hq : ∀ q, q.Prime → q ∣ M → ∃ u < 2 ^ d, timesMod p d u d (xPowMod p d n (M / q) ^^^ 1) = 1)
    {x : V} (hx : x ≠ z) : Function.minimalPeriod T x = M := by
  have hper : T^[M] x = x := by
    rw [iterate_eq_evalAt S hT hp hd hP h1 hM, hone, evalAt_one S hT h1]
  obtain ⟨c, hc⟩ := Function.IsPeriodicPt.minimalPeriod_dvd (f := T) (x := x) (n := M) hper
  by_contra hne
  have hc1 : c ≠ 1 := by
    rintro rfl
    exact hne (by omega)
  obtain ⟨q, hqp, e, rfl⟩ := Nat.exists_prime_and_dvd hc1
  obtain ⟨u, hu, hinv⟩ := hq q hqp ⟨Function.minimalPeriod T x * e, by rw [hc]; ring⟩
  refine hx (fixed_of_inverse S hT hp hd hP h1 (m := M / q) (Nat.lt_of_le_of_lt (Nat.div_le_self _ _) hM) hu
    hinv ?_)
  have : M / q = Function.minimalPeriod T x * e := by
    rw [hc, show Function.minimalPeriod T x * (q * e) = q * (Function.minimalPeriod T x * e) by ring,
      Nat.mul_div_cancel_left _ hqp.pos]
  rw [this]
  exact Function.IsPeriodicPt.mul_const (Function.isPeriodicPt_minimalPeriod T x) e

include S hT in
/-- The same sum with the powers of `T` written out. -/
theorem foldl_filter_eq (n r : Nat) (x acc : V) :
    ((List.range n).filter r.testBit).foldl (fun acc i => add acc (T^[i] x)) acc =
      add acc (evalAt add z T n r x) := by
  induction n generalizing r x acc with
  | zero => simp [evalAt, S.add_zero]
  | succ n ih =>
    have hs : (List.range (n + 1)).filter r.testBit =
        (if r.testBit 0 then [0] else []) ++ ((List.range n).filter (r / 2).testBit).map (· + 1) := by
      rw [List.range_succ_eq_map, List.filter_cons, List.filter_map]
      have hf : (r.testBit ∘ Nat.succ) = (r / 2).testBit := by
        funext i
        simp [Nat.testBit_succ]
      rw [hf]
      split <;> simp_all
    rw [hs, List.foldl_append, List.foldl_map]
    simp only [Function.iterate_succ_apply]
    rw [ih (r / 2) (T x)]
    rw [evalAt_map S hT, evalAt]
    cases r.testBit 0 <;> simp [S.zero, S.assoc]

end

open Machine

/-- The word list whose only 1 is bit `b` of word `i`. -/
def unitWords (w n i b : Nat) : Vector (BitVec w) n :=
  Vector.ofFn fun j => if j.val = i then BitVec.twoPow w b else 0#w

/-- The words with only the first `m` bits kept, bit `b` of word `i` being number `i·w + b`. -/
def keepBits {w n : Nat} (m : Nat) (x : Vector (BitVec w) n) : Vector (BitVec w) n :=
  Vector.ofFn fun j => x[j] &&& BitVec.ofNat w (2 ^ (m - j.val * w) - 1)

theorem keepBits_getLsbD {w n m : Nat} (x : Vector (BitVec w) n) {j : Nat} (hj : j < n) (b : Nat) :
    ((keepBits m x)[j]).getLsbD b = (x[j].getLsbD b && decide (b < w) && decide (b < m - j * w)) := by
  simp only [keepBits, Vector.getElem_ofFn, BitVec.getLsbD_and, BitVec.getLsbD_ofNat, Nat.testBit_two_pow_sub_one,
    Fin.getElem_fin, Bool.and_assoc]

/-- A linear map that sends every unit to zero is zero. -/
theorem eq_zero_of_units {V : Type} {add : V → V → V} {z : V} (S : XorSpace add z) {w n : Nat}
    {f : Vector (BitVec w) n → V} (hf : ∀ x y, f (xorWords x y) = add (f x) (f y))
    (hu : ∀ i < n, ∀ b < w, f (unitWords w n i b) = z) (x : Vector (BitVec w) n) : f x = z := by
  have h0 : f (zeroWords w n) = z := by
    have h := hf (zeroWords w n) (zeroWords w n)
    rw [xorWords_self, S.self] at h
    exact h
  have ext : ∀ a b : Vector (BitVec w) n, (∀ j (hj : j < n), ∀ c < w, a[j].getLsbD c = b[j].getLsbD c) →
      a = b := fun a b h => Vector.ext fun j hj => BitVec.eq_of_getLsbD_eq fun c hc => h j hj c hc
  have key : ∀ m, m ≤ n * w → f (keepBits m x) = z := by
    intro m
    induction m with
    | zero =>
      intro _
      rw [ext (keepBits 0 x) (zeroWords w n) fun j hj c hc => by simp [keepBits_getLsbD, zeroWords], h0]
    | succ m ih =>
      intro hm
      have hw : 0 < w := Nat.pos_of_ne_zero (by rintro rfl; omega)
      have hi : m / w < n := Nat.div_lt_of_lt_mul (by rw [Nat.mul_comm]; omega)
      have hb : m % w < w := Nat.mod_lt _ hw
      have hdm : m / w * w + m % w = m := Nat.div_add_mod' m w
      have split : keepBits (m + 1) x = xorWords (keepBits m x)
          (if x[m / w].getLsbD (m % w) then unitWords w n (m / w) (m % w) else zeroWords w n) := by
        refine ext _ _ fun j hj c hc => ?_
        simp only [xorWords, Vector.getElem_zipWith, BitVec.getLsbD_xor, keepBits_getLsbD]
        by_cases hjc : j = m / w ∧ c = m % w
        · obtain ⟨rfl, rfl⟩ := hjc
          have hm1 : m % w < m + 1 - m / w * w := by omega
          have hm0 : ¬ m % w < m - m / w * w := by omega
          cases hx : x[m / w].getLsbD (m % w) <;> simp [unitWords, zeroWords, hc, hm0, hm1]
        · have h1 : (c < m + 1 - j * w) ↔ (c < m - j * w) := by
            constructor
            · intro h
              by_contra h'
              have : c = m - j * w := by omega
              have hjm : j * w + c = m := by omega
              apply hjc
              rw [← hjm, Nat.mul_comm]
              exact ⟨by rw [Nat.mul_add_div hw, Nat.div_eq_of_lt hc]; rfl,
                by rw [Nat.mul_add_mod, Nat.mod_eq_of_lt hc]⟩
            · intro h; omega
          have h2 : (if x[m / w].getLsbD (m % w) = true then unitWords w n (m / w) (m % w)
              else zeroWords w n)[j].getLsbD c = false := by
            split
            · simp only [unitWords, Vector.getElem_ofFn]
              split
              · rename_i h
                simp [hc]
                intro h'
                exact hjc ⟨h, h'⟩
              · simp
            · simp [zeroWords]
          rw [h2]
          simp [h1]
      rw [split, hf, ih (by omega)]
      split
      · rw [hu _ hi _ hb, S.zero]
      · rw [h0, S.zero]
  have : keepBits (n * w) x = x := ext _ _ fun j hj c hc => by
    rw [keepBits_getLsbD]
    have : c < n * w - j * w := by
      rw [← Nat.sub_mul]
      exact Nat.lt_of_lt_of_le hc (Nat.le_mul_of_pos_left w (by omega))
    simp [hc, this]
  rw [← this]
  exact key _ (Nat.le_refl _)
end Sys2Proof.Laws
end

