-- ==== Sys2Proof/Tests/Slice0.lean ====
section
/-! SUPPORT. The model's own tests. Expected values come from the vectors of spec/95_test_vectors.md and the
examples of the rules, whose place each comment names; nothing here is the model's own answer. The second
half shows, for every statement with hypotheses, a state and operands that meet them together. -/

namespace Sys2Proof.Tests

open Sys2Proof.Machine

-- One theorem at a time: checked side by side, these many small evaluations start a thread each.
set_option Elab.async false

/-- The next state of an outcome, if it has one. -/
def nextOf : Host.Outcome State Fault Refusal → Option State
  | .next s => some s
  | .fault _ => none
  | .refused _ => none

/-- What a command shows: `(rsp_err, rsp_len, rsp_data)` of the response it leaves on offer. -/
def shown (o : Host.Outcome State Fault Refusal) : Option (BitVec 2 × BitVec 7 × Lanes) :=
  (nextOf o).bind fun s => s.rsp.map Response.ports

/-- The generator state a command leaves. -/
def stateAfter (o : Host.Outcome State Fault Refusal) : Option Generator := (nextOf o).map State.gen

/-- The expander counter a command leaves. -/
def counterAfter (o : Host.Outcome State Fault Refusal) : Option (Option Word64) := (nextOf o).map State.sm

/-- An instance after reset with default parameters. -/
def fresh (v : Variant) : State := State.resetOf v Config.defaultParams

/-- An instance with the given state words. -/
def seeded (v : Variant) (w : Words v) : State := { fresh v with gen := ⟨v, some w⟩ }

/-- The same state with `arg64` sampled. -/
def withArg (s : State) (x : Word64) : State := { s with sampled := { s.sampled with arg64 := x } }

/-- The same state with `argseed` sampled. -/
def withSeed (s : State) (x : Lanes) : State := { s with sampled := { s.sampled with argseed := x } }

/-- The all-ones state (spec/95 notation). -/
def ones (v : Variant) : Words v := Vector.replicate v.N (BitVec.allOnes v.W)

/-! ## Well-formedness: an ill-formed term for the one check -/

-- R85, R224: `jump` is ill-formed on variants 6 and 7 under `ABSENT`, the default.
theorem test_wf_refuses_jump_on_xoroshiro64 :
    Instr.jump.wf .xoroshiro64Star Config.defaultParams = false ∧
    Instr.jump.wf .xoroshiro64StarStar Config.defaultParams = false ∧
    Instr.jump.wf .xoroshiro64Star { Config.defaultParams with xoroshiro64Jump := .oneStepEquiv } = true := by
  decide

/-! ## Decoding, from words written out bit by bit (R84, R85; V12) -/

theorem test_decode_one_of_each_unit :
    decode .xoshiro256Plus Config.defaultParams 0b00010001#8 = some .smNext ∧
    decode .xoshiro256Plus Config.defaultParams 0b00100010#8 = some .seedSm ∧
    decode .xoshiro256Plus Config.defaultParams 0b00110100#8 = some .nextU64 ∧
    decode .xoshiro256Plus Config.defaultParams 0b01000000#8 = some .jump ∧
    decode .xoshiro256Plus Config.defaultParams 0b01010010#8 = some .statusClr := by decide

-- V12 and R87: words next to legal ones, and 0x40 on variant 6 under `ABSENT`, are illegal.
theorem test_decode_rejects_neighbours :
    [0x00#8, 0x12#8, 0x23#8, 0x35#8, 0x41#8, 0x53#8, 0x60#8, 0xFF#8].map
      (decode .xoroshiro128Plus Config.defaultParams) = List.replicate 8 none ∧
    decode .xoroshiro64Star Config.defaultParams 0x40#8 = none := by decide

theorem test_decodeTableWord : decodeTableWord 8 0x32 = some .next ∧ decodeTableWord 16 0x32 = none := by
  decide

/-! ## Seed expander -/

-- R105 example: `sm_seed 0` gives `sm = 0`, `SM_SEEDED = 1`; V11.3: `STATUS` is then 0x01440902 on variant 9.
theorem test_smSeed : counterAfter (exec .smSeed (fresh .xoshiro128StarStar)) = some (some 0#64) ∧
    (nextOf (exec .smSeed (fresh .xoshiro128StarStar))).map State.statusWord = some 0x01440902#32 := by
  decide +kernel

-- Table 2.1, rows 0 and 0xFFFFFFFFFFFFFFFF (V1.2, the counter wraps), and V1.1, the zero draw.
theorem test_smNext :
    shown (exec .smNext { fresh .xoroshiro128Plus with sm := some 0#64 }) =
      some (0#2, 8#7, 0xE220A8397B1DCDAF#512) ∧
    counterAfter (exec .smNext { fresh .xoroshiro128Plus with sm := some 0xFFFFFFFFFFFFFFFF#64 }) =
      some (some 0x9E3779B97F4A7C14#64) ∧
    shown (exec .smNext { fresh .xoroshiro128Plus with sm := some 0xFFFFFFFFFFFFFFFF#64 }) =
      some (0#2, 8#7, 0xE4D971771B652C20#512) ∧
    shown (exec .smNext { fresh .xoroshiro128Plus with sm := some 0x61C8864680B583EB#64 }) =
      some (0#2, 8#7, 0#512) := by decide +kernel

-- V1.3: `sm_next` after reset gives (3, 0, 0) and sets `STATUS[4]`.
theorem test_smNext_unseeded : shown (exec .smNext (fresh .xoroshiro128Plus)) = some (3#2, 0#7, 0#512) ∧
    (nextOf (exec .smNext (fresh .xoroshiro128Plus))).map State.statusWord = some 0x01280010#32 := by
  decide +kernel

/-! ## Construction -/

-- V8.2, V8.4 and V8.5.
theorem test_seedBytes :
    stateAfter (exec .seedBytes (withSeed (fresh .xoroshiro128StarStar) (packBytes
      [0x01, 0, 0, 0, 0, 0, 0, 0, 0x02, 0, 0, 0, 0, 0, 0, 0]))) = some ⟨.xoroshiro128StarStar, some #v[1, 2]⟩ ∧
    stateAfter (exec .seedBytes (withSeed (fresh .xoroshiro64Star) (packBytes
      [0, 0, 0, 0, 0, 0, 0, 0x80]))) = some ⟨.xoroshiro64Star, some #v[0, 0x80000000]⟩ ∧
    stateAfter (exec .seedBytes (withSeed (fresh .xoshiro128Plus) (packBytes
      [0xEF, 0xBE, 0xAD, 0xDE]))) = some ⟨.xoshiro128Plus, some #v[0xDEADBEEF, 0, 0, 0]⟩ := by decide +kernel

-- V8.6: an all-zero seed gives (1, 0, 0) and leaves a seeded state; V11.2: `STATUS` is then 0x00240604 on 6.
theorem test_seedBytes_rejects_zero :
    shown (exec .seedBytes (seeded .xoroshiro128Plus #v[1, 2])) = some (1#2, 0#7, 0#512) ∧
    stateAfter (exec .seedBytes (seeded .xoroshiro128Plus #v[1, 2])) =
      some ⟨.xoroshiro128Plus, some #v[1, 2]⟩ ∧
    (nextOf (exec .seedBytes (fresh .xoroshiro64Star))).map State.statusWord = some 0x00240604#32 := by
  decide +kernel

-- Table 2.7: variant 3 from 0, and variant 6 from 0 under both modes.
theorem test_seedU64 :
    stateAfter (exec .seedU64 (fresh .xoshiro256StarStar)) = some ⟨.xoshiro256StarStar,
      some #v[0xE220A8397B1DCDAF, 0x6E789E6AA1B965F4, 0x06C45D188009454F, 0xF88BB8A8724C81EC]⟩ ∧
    stateAfter (exec .seedU64 (fresh .xoroshiro64Star)) =
      some ⟨.xoroshiro64Star, some #v[0x7B1DCDAF, 0xA1B965F4]⟩ ∧
    stateAfter (exec .seedU64
      { fresh .xoroshiro64Star with params := { Config.defaultParams with seedU64W32Mode := .byteFill } }) =
      some ⟨.xoroshiro64Star, some #v[0x7B1DCDAF, 0xE220A839]⟩ := by decide +kernel

-- V7.1 and V7.2: the zero draw gives the all-zero state under `BYTEFILL`, not under `TRUNCATE`.
theorem test_seedU64_zero_state :
    stateAfter (exec .seedU64 (withArg
      { fresh .xoroshiro64StarStar with params := { Config.defaultParams with seedU64W32Mode := .byteFill } }
      0x61C8864680B583EB#64)) = some ⟨.xoroshiro64StarStar, some #v[0, 0]⟩ ∧
    stateAfter (exec .seedU64 (withArg (fresh .xoroshiro64StarStar) 0x61C8864680B583EB#64)) =
      some ⟨.xoroshiro64StarStar, some #v[0, 0x7B1DCDAF]⟩ := by decide +kernel

-- The `seed_sm` table of 2.7: variant 8 from 0 under both modes, state and counter.
theorem test_seedSm :
    (nextOf (exec .seedSm { fresh .xoshiro128Plus with sm := some 0#64 })).map (fun s => (s.gen, s.sm)) =
      some (⟨.xoshiro128Plus, some #v[0x7B1DCDAF, 0xA1B965F4, 0x8009454F, 0x724C81EC]⟩,
        some 0x78DDE6E5FD29F054#64) ∧
    (nextOf (exec .seedSm { fresh .xoshiro128Plus with
      sm := some 0#64, params := { Config.defaultParams with seedU64W32Mode := .byteFill } })).map
        (fun s => (s.gen, s.sm)) =
      some (⟨.xoshiro128Plus, some #v[0x7B1DCDAF, 0xE220A839, 0xA1B965F4, 0x6E789E6A]⟩,
        some 0x3C6EF372FE94F82A#64) := by decide +kernel

/-! ## State update -/

-- Table 2.2, the rows from (1..N) of every family.
theorem test_step :
    stateAfter (exec .step (seeded .xoroshiro128Plus #v[1, 2])) =
      some ⟨.xoroshiro128Plus, some #v[0x0000000001030003, 0x0000006000000000]⟩ ∧
    stateAfter (exec .step (seeded .xoshiro256Plus #v[1, 2, 3, 4])) =
      some ⟨.xoshiro256Plus, some #v[0x7, 0x0, 0x40002, 0xC00000000000]⟩ ∧
    stateAfter (exec .step (seeded .xoshiro512Plus #v[1, 2, 3, 4, 5, 6, 7, 8])) =
      some ⟨.xoshiro512Plus, some #v[0x6, 0x0, 0x2, 0x1, 0x1, 0x4, 0x100B, 0x1800000]⟩ ∧
    stateAfter (exec .step (seeded .xoroshiro64Star #v[1, 2])) =
      some ⟨.xoroshiro64Star, some #v[0x04000603, 0x00006000]⟩ ∧
    stateAfter (exec .step (seeded .xoshiro128Plus #v[1, 2, 3, 4])) =
      some ⟨.xoshiro128Plus, some #v[0x00000007, 0x00000000, 0x00000402, 0x00003000]⟩ := by decide +kernel

-- Table 2.2, the rows with only the top bit of the last word, and all-ones on variant 4.
theorem test_step_top_bit :
    advance .xoroshiro128Plus #v[0, 0x8000000000000000] = #v[0x8000000000000000, 0x0000001000000000] ∧
    advance .xoshiro256Plus #v[0, 0, 0, 0x8000000000000000] = #v[0x8000000000000000, 0, 0, 0x100000000000] ∧
    advance .xoshiro512Plus (ones .xoshiro512Plus) =
      #v[0, 0xFFFFFFFFFFFFFFFF, 0, 0, 0xFFFFFFFFFFFFFFFF, 0, 0x7FF, 0] ∧
    advance .xoroshiro64Star #v[0, 0x80000000] = #v[0x80000000, 0x00001000] ∧
    advance .xoshiro128Plus #v[0, 0, 0, 0x80000000] = #v[0x80000000, 0, 0, 0x00000400] := by decide +kernel

/-! ## Scramblers and draws -/

-- Table 2.3: the all-ones state of each variant, where every sum and product wraps.
theorem test_scramble :
    scramble .xoroshiro128Plus (ones _) = 0xFFFFFFFFFFFFFFFE#64 ∧
    scramble .xoroshiro128StarStar (ones _) = 0xFFFFFFFFFFFFEDF7#64 ∧
    scramble .xoshiro256Plus (ones _) = 0xFFFFFFFFFFFFFFFE#64 ∧
    scramble .xoshiro256StarStar (ones _) = 0xFFFFFFFFFFFFEDF7#64 ∧
    scramble .xoshiro512Plus (ones _) = 0xFFFFFFFFFFFFFFFE#64 ∧
    scramble .xoshiro512StarStar (ones _) = 0xFFFFFFFFFFFFEDF7#64 ∧
    scramble .xoroshiro64Star (ones _) = 0x61C88645#32 ∧
    scramble .xoroshiro64StarStar (ones _) = 0x1D53EB5C#32 ∧
    scramble .xoshiro128Plus (ones _) = 0xFFFFFFFE#32 ∧
    scramble .xoshiro128StarStar (ones _) = 0xFFFFEDF7#32 := by decide +kernel

-- R157 example: variant 1 from (1, 2) gives 5760 and stays.
theorem test_scramble_command :
    shown (exec .scramble (seeded .xoroshiro128StarStar #v[1, 2])) = some (0#2, 8#7, 5760#512) ∧
    stateAfter (exec .scramble (seeded .xoroshiro128StarStar #v[1, 2])) =
      some ⟨.xoroshiro128StarStar, some #v[1, 2]⟩ := by decide +kernel

-- E1 to E4, the source's own vectors: the first draw of each, and table 2.4 for variant 7.
theorem test_next :
    shown (exec .next (seeded .xoroshiro128StarStar #v[1, 2])) = some (0#2, 8#7, 5760#512) ∧
    shown (exec .next (seeded .xoroshiro128Plus #v[1, 2])) = some (0#2, 8#7, 3#512) ∧
    shown (exec .next (seeded .xoshiro512Plus #v[1, 2, 3, 4, 5, 6, 7, 8])) = some (0#2, 8#7, 4#512) ∧
    shown (exec .next (seeded .xoroshiro64Star #v[1, 2])) = some (0#2, 4#7, 2654435771#512) ∧
    shown (exec .next (seeded .xoroshiro64StarStar #v[1, 2])) = some (0#2, 4#7, 3802928447#512) := by
  decide +kernel

-- E1, E2 and E4, the second and third draws; table 2.4 for variants 2, 3, 8 and 9, the second.
theorem test_next_later_draws :
    scramble .xoroshiro128StarStar ((advance _)^[2] #v[1, 2]) = 9706862127477703552#64 ∧
    scramble .xoroshiro128Plus ((advance _)^[2] #v[1, 2]) = 2360170716294286339#64 ∧
    scramble .xoroshiro64Star ((advance _)^[2] #v[1, 2]) = 4063491769#32 ∧
    scramble .xoshiro512Plus ((advance _)^[3] #v[1, 2, 3, 4, 5, 6, 7, 8]) = 25169936#64 ∧
    scramble .xoshiro256Plus (advance _ #v[1, 2, 3, 4]) = 211106232532999#64 ∧
    scramble .xoshiro256StarStar ((advance _)^[2] #v[1, 2, 3, 4]) = 1509978240#64 ∧
    scramble .xoshiro128Plus (advance _ #v[1, 2, 3, 4]) = 12295#32 ∧
    scramble .xoshiro128StarStar ((advance _)^[2] #v[1, 2, 3, 4]) = 5927040#32 := by decide +kernel

-- Table 2.5, the second value of variants 0 and 1 (both halves), from the state after one draw.
theorem test_nextU32 :
    shown (exec .nextU32 (seeded .xoroshiro128Plus (advance _ #v[1, 2]))) = some (0#2, 4#7, 96#512) ∧
    shown (exec .nextU32 (seeded .xoroshiro128StarStar (advance _ #v[1, 2]))) =
      some (0#2, 4#7, 3279963008#512) ∧
    shown (exec .nextU32 { seeded .xoroshiro128StarStar (advance _ #v[1, 2]) with
      params := { Config.defaultParams with u32HalfSS := .high } }) = some (0#2, 4#7, 22#512) := by
  decide +kernel

-- Table 2.6, variant 6 in both orders, and the state after two steps (2.9).
theorem test_nextU64 :
    shown (exec .nextU64 (seeded .xoroshiro64Star #v[1, 2])) = some (0#2, 8#7, 0x1380CF319E3779BB#512) ∧
    shown (exec .nextU64 { seeded .xoroshiro64Star #v[1, 2] with
      params := { Config.defaultParams with u64PairOrder := .highFirst } }) =
      some (0#2, 8#7, 0x9E3779BB1380CF31#512) ∧
    stateAfter (exec .nextU64 (seeded .xoroshiro64Star #v[1, 2])) =
      some ⟨.xoroshiro64Star, some #v[0x08DC601B, 0x0CC06080]⟩ := by decide +kernel

-- Table 2.9: variant 1, n = 11, and variant 6, n = 6 (a truncated tail costs one whole draw).
theorem test_fillBytes :
    (State.fillBytes (seeded .xoroshiro128StarStar #v[1, 2]) 11).map (fun x => (x.1.toOption, x.2.gen)) =
      some (some [0x80, 0x16, 0, 0, 0, 0, 0, 0, 0x80, 0x43, 0x80],
        ⟨.xoroshiro128StarStar, some #v[0x0061026302000003, 0x2060006000000C00]⟩) ∧
    (State.fillBytes (seeded .xoroshiro64Star #v[1, 2]) 6).map (fun x => (x.1.toOption, x.2.gen)) =
      some (some [0xBB, 0x79, 0x37, 0x9E, 0x31, 0xCF],
        ⟨.xoroshiro64Star, some #v[0x08DC601B, 0x0CC06080]⟩) := by decide +kernel

/-! ## Jump -/

-- Table 2.10: one jump from (1..N).
theorem test_jump :
    stateAfter (exec .jump (seeded .xoroshiro128Plus #v[1, 2])) =
      some ⟨.xoroshiro128Plus, some #v[0x66FBD4BE1DF0A7B5, 0x830C3DDBB4AA3172]⟩ ∧
    stateAfter (exec .jump (seeded .xoshiro128Plus #v[1, 2, 3, 4])) =
      some ⟨.xoshiro128Plus, some #v[0xA9765206, 0x797AA168, 0x5B62E331, 0x02ABD971]⟩ := by decide +kernel

-- Table 2.10: xoshiro256 at both distances and xoshiro512.
theorem test_jump_wide :
    jumpState .xoshiro256Plus Config.defaultParams #v[1, 2, 3, 4] =
      #v[0x8C7A153956B5F3D1, 0x701F1A713401D85E, 0x6527F66A65469085, 0x8386B786C4408050] ∧
    jumpState .xoshiro256StarStar { Config.defaultParams with xoshiro256JumpLog2 := .log64 } #v[1, 2, 3, 4] =
      #v[0x843907D8769F9C72, 0x6941FDF8438CD2A3, 0x238262F4715BFD5C, 0x4905BE3DDE4305EF] ∧
    jumpState .xoshiro512Plus Config.defaultParams #v[1, 2, 3, 4, 5, 6, 7, 8] =
      #v[0x362505100E9F7D7C, 0x63FAB37A35129580, 0xAC6A00EC8DC639A2, 0xDED17B8D82675240,
        0x72579E2A291B4B08, 0xC67538B8BC1FB96D, 0x381684E2D1D18563, 0xCF5958F38A851658] := by decide +kernel

-- V10.2: word 0x40 gives code 2 on variant 6 under `ABSENT`, even unseeded; V10.3: code 3 where it is legal.
theorem test_jump_errors :
    shown (State.accept (fresh .xoroshiro64Star) (.plain .jump)) = some (2#2, 0#7, 0#512) ∧
    shown (State.accept (fresh .xoroshiro128Plus) (.plain .jump)) = some (3#2, 0#7, 0#512) := by decide +kernel

/-! ## Status and read-back -/

-- V11.1.
theorem test_readState :
    shown (exec .readState (seeded .xoroshiro128StarStar #v[1, 2])) =
      some (0#2, 16#7, 0x00000000000000020000000000000001#512) := by decide +kernel

-- V11.1 and P3, line 9: `SEEDED` and `ERR_ILLEGAL_COMMAND` on variant 6.
theorem test_status :
    shown (exec .status (seeded .xoroshiro128StarStar #v[1, 2])) = some (0#2, 4#7, 0x01280101#512) ∧
    shown (exec .status { seeded .xoroshiro64Star #v[1, 2] with sticky := ⟨false, true, false⟩ }) =
      some (0#2, 4#7, 0x00240609#512) := by decide +kernel

-- V11.2.
theorem test_statusClr :
    (nextOf (exec .statusClr { fresh .xoroshiro64Star with sticky := ⟨true, false, false⟩ })).map
      State.statusWord = some 0x00240600#32 := by decide +kernel

/-! ## Ports -/

/-- A block with a response on offer. -/
def waiting : State := { fresh .xoroshiro128Plus with rsp := some ⟨none, 0#7, 0#512⟩ }

-- R82(b), R304: a command offered beside a waiting response is not accepted but held to; changing it faults.
theorem test_offer_is_held :
    (nextOf (step { waiting with inputs := [Slot.offer (.plain .status)] })).map
      (fun s => (s.rsp, s.offered)) = some (some ⟨none, 0#7, 0#512⟩, some (.plain .status)) ∧
    (match step { waiting with
        inputs := [Slot.offer (.plain .next)], offered := some (.plain .status) } with
      | .fault .hostChangedOffer => true
      | _ => false) = true := by decide +kernel

-- R300: a response that waits at an edge with `rst = 1` is never taken.
theorem test_reset_drops_response :
    (nextOf (step { waiting with inputs := [Slot.reset] })).map State.rsp = some none ∧
    State.output { waiting with inputs := [{ Slot.reset with rspReady := true }] } = none := by decide +kernel

-- The first step after reset runs the word placed for it: `sm_seed`, with `arg64 = 0`.
theorem test_withFetchWord :
    (nextOf (step (State.reset.withFetchWord 8 0x10))).map State.sm = some (some 0#64) := by decide +kernel

/-! ## Assembler -/

-- R90 and P1, P3: the `words` form, a number, an operand that does not fit, and a named instance.
theorem test_assemble :
    (assemble .xoroshiro128StarStar ⟨none, .seedBytes, .words [1, 2]⟩).map (fun r => r.args.argseed) =
      some (packBytes [0x01, 0, 0, 0, 0, 0, 0, 0, 0x02, 0, 0, 0, 0, 0, 0, 0]) ∧
    assemble .xoroshiro64Star ⟨none, .seedBytes, .words [1, 2 ^ 32]⟩ = none ∧
    assemble .xoroshiro64Star ⟨none, .seedU64, .number (2 ^ 64)⟩ = none ∧
    assemble .xoroshiro64Star ⟨none, .seedU64, .number 42⟩ = some ⟨0x21#8, 42#64, 0#512⟩ := by decide +kernel

theorem test_parseLine :
    parseLine ['A', ':', ' ', 's', 't', 'e', 'p', ' ', ';', 'x'] = some (some ⟨some ['A'], .step, .absent⟩) ∧
    parseLine ['s', 'e', 'e', 'd', '_', 'u', '6', '4', ' ', '0', 'x', '2', 'A'] =
      some (some ⟨none, .seedU64, .number 42⟩) ∧
    parseLine ['s', 'e', 'e', 'd', '_', 'b', 'y', 't', 'e', 's', ' ', 'w', 'o', 'r', 'd', 's', '(', '1', ',',
      ' ', '2', ')'] = some (some ⟨none, .seedBytes, .words [1, 2]⟩) ∧
    parseLine ['h', 'a', 'l', 't'] = none := by decide +kernel

-- Pseudo-instruction lines of programs P4 and P5 of spec/95_test_vectors.md.
theorem test_parsePseudo :
    parsePseudo "fill_bytes 7                 ; expands to:".toList = some (.fillBytes none 7) ∧
    (AsmPseudo.fillBytes none 7).commands .xoshiro128Plus = [.plain .next, .plain .next] ∧
    parsePseudo "clone A -> B               ; expands".toList = some (.clone ['A'] ['B']) ∧
    parsePseudo "step".toList = none := by decide +kernel

-- Log entry 18: a prefix names the instance of a repeated command, and none stands before `clone`.
theorem test_parsePseudo_prefix :
    parsePseudo "A: jump_k 2".toList = some (.jumpK (some ['A']) 2) ∧
    parsePseudo "C: clone A -> B".toList = none := by decide +kernel

/-! ## Host procedures with other commands in between, and runs -/

-- R304, E1 of spec/95_test_vectors.md: a `next` between the two draws of a fill takes the second draw.
theorem test_fillBytes_interleaved :
    (State.fillBytes (seeded .xoroshiro128StarStar #v[1, 2]) 16 [[], [.plain .next]]).map
      (fun x => x.1.toOption) = some (some (leBytes 5760#64 ++ leBytes 9706862127477703552#64)) := by
  decide +kernel

/-- Two instances, the first seeded with (1, 2). -/
def pair (v : Variant) : System := ⟨[seeded .xoroshiro128Plus #v[1, 2], fresh v]⟩

-- R305(e): a `next` on A between the two halves of a clone leaves B one step behind A (R122's example).
theorem test_clone_interleaved :
    ((pair .xoroshiro128StarStar).clone 0 1 [(0, .plain .next)]).map (fun x => x.2.blocks.map State.gen) =
      some [⟨.xoroshiro128Plus, some #v[0x0000000001030003, 0x0000006000000000]⟩,
        ⟨.xoroshiro128StarStar, some #v[1, 2]⟩] := by decide +kernel

-- R90, R91: A's 16 bytes are no operand of an instance with 8 or 32 seed bytes.
theorem test_clone_refuses_other_length : (pair .xoroshiro64Star).clone 0 1 = none ∧
    (pair .xoshiro256Plus).clone 0 1 = none := by decide +kernel

/-- The same state before a host that draws once, letting the response wait one edge, and then does `qs`. -/
def drawing (qs : List Slot) : State := { seeded .xoroshiro128Plus #v[1, 2] with
  inputs := [Slot.offer (.plain .next), Slot.offer (.plain .next),
    { Slot.offer (.plain .next) with rspReady := true }, Slot.offer (.plain .next)] ++ qs }

-- R307, E2: two draws that the host answers; then one draw of which a reset drops the response.
theorem test_run :
    ((drawing [Slot.takeOnly (.plain .next)]).run.bind Run.observation).map Observation.responses =
      some [(0#2, 8#7, 3#512), (0#2, 8#7, 412333834243#512)] ∧
    ((drawing [Slot.reset, Slot.offer (.plain .status)]).run.bind Run.observation).map
      (fun o => (o.responses, o.gen, o.status)) =
      some ([(0#2, 8#7, 3#512)], ⟨.xoroshiro128Plus, none⟩, 0x01280000#32) ∧
    (drawing []).run.bind Run.observation = none := by decide +kernel

-- Log entry 19: a command offered beside a waiting response and withdrawn leaves the run unfinished.
theorem test_run_withdrawn_offer :
    (State.run { seeded .xoroshiro128Plus #v[1, 2] with inputs := [Slot.offer (.plain .next),
      Slot.offer (.plain .next), Slot.takeOnly (.plain .next)] }).map Run.ending =
      some .unfinished := by decide +kernel

/-! ## Witnesses: a state and operands that meet the hypotheses of each statement together -/

/-- An idle seeded block whose host offers the command word `cmd` next. -/
def offering (v : Variant) (w : Words v) (cmd : Byte) : State :=
  { seeded v w with inputs := [Slot.offer ⟨cmd, Args.zero⟩] }

/-- An outcome that has a next state is that next state. -/
theorem next_of_isSome {o : Host.Outcome State Fault Refusal} (h : (nextOf o).isSome = true) :
    ∃ t, o = .next t := by
  cases o with
  | next t => exact ⟨t, rfl⟩
  | fault r => simp [nextOf] at h
  | refused r => simp [nextOf] at h

/-- Default parameters but for `ONE_STEP_EQUIV`. -/
def oneStep : Params := { Config.defaultParams with xoroshiro64Jump := .oneStepEquiv }

-- DecodeAndEncodeAgree: both sides hold of `jump` where it is legal, and neither where it is not.
theorem witness_DecodeAndEncodeAgree :
    decode .xoshiro512Plus Config.defaultParams 0x40#8 = some .jump ∧
    Instr.jump.wf .xoshiro512Plus Config.defaultParams = true ∧ encode .jump = 0x40#8 := by decide

-- OneWordOfEachUnitDecodes, StreamStartsItsNumberOfJumpsOn, and the `JUMP_PRESENT` clauses of DecoderOfEveryInstance on both sides.
theorem witness_jumpPresent : jumpPresent .xoroshiro128Plus Config.defaultParams = true ∧
    jumpPresent .xoroshiro64StarStar oneStep = true ∧
    jumpPresent .xoroshiro64StarStar Config.defaultParams = false := by decide

-- DecoderOfEveryInstance: words outside the map, at the edges of a unit, and a request that decodes to nothing.
theorem witness_DecoderOfEveryInstance :
    0x0F#8 ∉ [0x10#8, 0x11#8, 0x40#8] ∧ decode .xoshiro128Plus Config.defaultParams 0x0F#8 = none ∧
    decode (fresh .xoroshiro64Star).gen.variant (fresh .xoroshiro64Star).params 0x40#8 = none := by decide

-- StepRunsDecodedCommand.
theorem witness_StepRunsDecodedCommand : ∃ (s : State) (q : Slot) (qs : List Slot) (i : Instr),
    s.inputs = q :: qs ∧ q.rst = false ∧ q.cmdValid = true ∧ s.rsp = none ∧ s.breaksOffer q = false ∧
    decode s.gen.variant s.params q.req.cmd = some i :=
  ⟨offering .xoroshiro128Plus #v[1, 2] 0x32#8, Slot.offer ⟨0x32#8, Args.zero⟩, [], .next, by decide +kernel⟩

-- IllegalWordsRaiseIllegalCommand: 0xFF anywhere, and 0x40 where the instance has no jump.
theorem witness_IllegalWordsRaiseIllegalCommand :
    (∀ i : Instr, i.wf .xoroshiro128Plus Config.defaultParams = true → encode i ≠ 0xFF#8) ∧
    (∀ i : Instr, i.wf .xoroshiro64Star Config.defaultParams = true → encode i ≠ 0x40#8) ∧
    ∃ (s : State) (q : Slot), s.inputs = [q] ∧ q.rst = false ∧ q.cmdValid = true ∧ s.rsp = none ∧
      s.breaksOffer q = false ∧ q.req.cmd = 0xFF#8 ∧ s.gen.variant = .xoroshiro128Plus ∧
      s.params = Config.defaultParams := by
  refine ⟨fun i => by cases i <;> decide, fun i => by cases i <;> decide, ?_⟩
  exact ⟨offering .xoroshiro128Plus #v[1, 2] 0xFF#8, Slot.offer ⟨0xFF#8, Args.zero⟩, by decide +kernel⟩

-- WaitingResponseBlocksCommands: a host that takes the response, and one that does not.
theorem witness_WaitingResponseBlocksCommands :
    (∃ (s : State) (q : Slot) (x : Response), s.inputs = [q] ∧ q.rst = false ∧ s.rsp = some x ∧
      s.breaksOffer q = false ∧ q.rspReady = true) ∧
    ∃ (s : State) (q : Slot) (x : Response), s.inputs = [q] ∧ q.rst = false ∧ s.rsp = some x ∧
      s.breaksOffer q = false ∧ q.rspReady = false ∧ q.cmdValid = true :=
  ⟨⟨{ waiting with inputs := [Slot.takeOnly (.plain .next)] }, Slot.takeOnly (.plain .next),
    ⟨none, 0#7, 0#512⟩, by decide +kernel⟩,
    ⟨{ waiting with inputs := [Slot.offer (.plain .next)] }, Slot.offer (.plain .next),
      ⟨none, 0#7, 0#512⟩, by decide +kernel⟩⟩

-- ResetAtAnyEdge: a seeded block with a response on offer.
theorem witness_ResetAtAnyEdge : ∃ (s : State) (q : Slot), s.inputs = [q] ∧ q.rst = true ∧
    s.seeded = true ∧ s.rsp.isSome = true :=
  ⟨{ seeded .xoroshiro128Plus #v[1, 2] with rsp := waiting.rsp, inputs := [Slot.reset] }, Slot.reset,
    by decide +kernel⟩

-- OnlyABrokenOfferStopsTheBlock: a host that keeps its offer and one that breaks it.
theorem witness_OnlyABrokenOfferStopsTheBlock :
    State.hostKeepsOffer { waiting with
      inputs := [Slot.offer (.plain .next)], offered := some (.plain .next) } = true ∧
    State.hostKeepsOffer { waiting with
      inputs := [Slot.offer (.plain .next)], offered := some (.plain .step) } = false := by decide +kernel

-- StickyBitsPersist and OnlyResetClearsSeeded: a block with all of these set, and a step without reset.
theorem witness_StickyBitsPersist : ∃ (s t : State) (q : Slot), step s = .next t ∧ s.inputs = [q] ∧
    q.rst = false ∧ ¬(s.rsp = none ∧ q.cmdValid = true ∧ q.req.cmd = 0x52#8) ∧
    s.sticky = ⟨true, true, true⟩ ∧ s.seeded = true ∧ s.smSeeded = true := by
  obtain ⟨t, ht⟩ := next_of_isSome (o := step { offering .xoroshiro128Plus #v[1, 2] 0x51#8 with
    sticky := ⟨true, true, true⟩, sm := some 0#64 }) (by decide +kernel)
  exact ⟨_, t, Slot.offer ⟨0x51#8, Args.zero⟩, ht, by decide +kernel⟩

-- ConfigurationNeverChanges, StepKeepsResponsesWellFormed, NoStepReachesZeroOn64BitVariants.
theorem witness_step_invariants : ∃ s t : State, step s = .next t ∧ s.inv = true ∧
    s.gen.variant.W = 64 ∧ s.gen.words ≠ some (zeroWords s.gen.variant.W s.gen.variant.N) := by
  obtain ⟨t, ht⟩ := next_of_isSome (o := step (offering .xoroshiro128Plus #v[1, 2] 0x32#8)) (by decide +kernel)
  exact ⟨_, t, ht, by decide +kernel⟩

-- UnwrittenReadsRaiseUnseeded: a command of each list on an unseeded block.
theorem witness_UnwrittenReadsRaiseUnseeded :
    Instr.jump.wf (fresh .xoshiro256Plus).gen.variant (fresh .xoshiro256Plus).params = true ∧
    readsWords .jump = true ∧ (fresh .xoshiro256Plus).seeded = false ∧
    Instr.seedSm.wf (fresh .xoshiro256Plus).gen.variant (fresh .xoshiro256Plus).params = true ∧
    readsSm .seedSm = true ∧ (fresh .xoshiro256Plus).smSeeded = false := by decide

-- ErrorsChangeOnlyTheirStickyBit and ErrorOutcomesByCommand: each error is raised by some command.
theorem witness_ErrorsChangeOnlyTheirStickyBit :
    shown (State.accept (fresh .xoroshiro128Plus) (.plain .seedBytes)) = some (1#2, 0#7, 0#512) ∧
    shown (State.accept (fresh .xoroshiro128Plus) ⟨0x00#8, Args.zero⟩) = some (2#2, 0#7, 0#512) ∧
    shown (State.accept (fresh .xoroshiro128Plus) (.plain .seedSm)) = some (3#2, 0#7, 0#512) ∧
    expectedError (fresh .xoroshiro128Plus) (.plain .seedBytes) = some .invalidSeed ∧
    expectedError (fresh .xoroshiro128Plus) (.plain .statusClr) = none := by decide +kernel

-- SmNextDrawsFromCounter and SeedSmWritesExpansionAndAdvances: an unwritten counter, and the greatest one.
theorem witness_counter : (fresh .xoroshiro64Star).sm = none ∧
    State.sm { fresh .xoroshiro64Star with sm := some 0xFFFFFFFFFFFFFFFF#64 } =
      some 0xFFFFFFFFFFFFFFFF#64 := by decide

-- ExpansionDrawsAndCounter: the first and the last draw of the longest expansion a command takes.
theorem witness_ExpansionDrawsAndCounter : (0 < 8 ∧ 7 < 8) ∧ (expand 0#64 8).1[7] = 0xC584133AC916AB3C#64 := by
  decide +kernel

-- SeedBytesDecodesOrRejects: a zero seed with a bit just above the port, and the last bit of the port.
theorem witness_SeedBytesDecodesOrRejects :
    (withSeed (fresh .xoroshiro64Star) (1#512 <<< 64)).sampled.argseed.setWidth
      (8 * Variant.L .xoroshiro64Star) = 0 ∧
    (withSeed (fresh .xoroshiro64Star) (1#512 <<< 63)).sampled.argseed.setWidth
      (8 * Variant.L .xoroshiro64Star) ≠ 0 := by decide +kernel

-- WhenExpansionIsAllZero: a variant and parameters for each clause, and the one counter value of the third.
theorem witness_WhenExpansionIsAllZero :
    Variant.W .xoroshiro128Plus = 64 ∧
    SeedU64W32Mode.byteFill = ({ Config.defaultParams with seedU64W32Mode := .byteFill } : Params).seedU64W32Mode ∧
    (expandState .xoroshiro64Star { Config.defaultParams with seedU64W32Mode := .byteFill }
      0x61C8864680B583EB#64).1 = zeroWords 32 2 := by decide +kernel

-- FullPeriodOf64BitStates, FullPeriodOf128BitStates and AssembledSeedWordsBecomeTheState: nonzero words, and
-- the last step count each of the two periods excludes.
theorem witness_nonzero_words :
    (#v[0, 0x80000000] : Words .xoroshiro64StarStar) ≠ zeroWords 32 2 ∧
    (#v[0, 0, 0, 1] : Words .xoshiro128Plus) ≠ zeroWords 32 4 ∧
    Variant.xoshiro128Plus ∈
      [.xoroshiro128Plus, .xoroshiro128StarStar, .xoshiro128Plus, Variant.xoshiro128StarStar] ∧
    0 < 2 ^ 64 - 2 ∧ 2 ^ 64 - 2 < 2 ^ 64 - 1 := by decide +kernel

-- The statements on commands that read `S`: unwritten words, and written ones.
theorem witness_words : (fresh .xoroshiro128Plus).gen.words = none ∧
    ∃ w, (seeded .xoroshiro128Plus #v[1, 2]).gen.words = some w := ⟨rfl, _, rfl⟩

-- NextU64PairsDraws: a variant of each width.
theorem witness_widths : (seeded .xoroshiro128Plus #v[1, 2]).gen.variant.W = 64 ∧
    (seeded .xoroshiro64Star #v[1, 2]).gen.variant.W = 32 := by decide

-- FillBytesIsConcatenatedDraws at n = 0, and FillOfNothingAndOfAnUnseededBlock on an unseeded block.
theorem witness_fill :
    (State.fillBytes (seeded .xoroshiro64Star #v[1, 2]) 0).map (fun x => x.1.toOption) = some (some []) ∧
    (State.fillBytes (fresh .xoroshiro64Star) 1).map (fun x => x.1.toOption) = some none := by decide +kernel

-- JumpCommandReplacesState: an instance without a jump; with one, unseeded; with one, seeded.
theorem witness_JumpCommandReplacesState :
    jumpPresent (fresh .xoroshiro64Star).gen.variant (fresh .xoroshiro64Star).params = false ∧
    (jumpPresent (fresh .xoshiro256Plus).gen.variant (fresh .xoshiro256Plus).params = true ∧
      (fresh .xoshiro256Plus).gen.words = none) ∧
    jumpPresent (seeded .xoshiro128Plus #v[1, 2, 3, 4]).gen.variant
      (seeded .xoshiro128Plus #v[1, 2, 3, 4]).params = true := by decide

-- JumpOfXoroshiro64: each parameter value on a seeded instance.
theorem witness_JumpOfXoroshiro64 :
    (seeded .xoroshiro64Star #v[1, 2]).params.xoroshiro64Jump = .absent ∧
    ({ seeded .xoroshiro64StarStar #v[1, 2] with params := oneStep } : State).params.xoroshiro64Jump =
      .oneStepEquiv ∧
    stateAfter (exec .jump { seeded .xoroshiro64StarStar #v[1, 2] with params := oneStep }) =
      some ⟨.xoroshiro64StarStar, some #v[0x04000603, 0x00006000]⟩ := by decide +kernel

-- The three statements on jump distances: a seeded instance of each family.
theorem witness_jump_distances :
    (seeded .xoshiro128StarStar #v[1, 2, 3, 4]).gen.variant ∈
      [.xoroshiro128Plus, .xoroshiro128StarStar, .xoshiro128Plus, Variant.xoshiro128StarStar] ∧
    (seeded .xoshiro256Plus #v[1, 2, 3, 4]).gen.variant ∈ [.xoshiro256Plus, Variant.xoshiro256StarStar] ∧
    (seeded .xoshiro512StarStar #v[1, 2, 3, 4, 5, 6, 7, 8]).gen.variant ∈
      [.xoshiro512Plus, Variant.xoshiro512StarStar] := by decide

-- ReadStateReturnsWords and CloneRestoresANonzeroState: a nonzero state and the all-zero one, both read back.
theorem witness_CloneRestoresANonzeroState :
    (seeded .xoroshiro64Star #v[1, 2]).nonzero = true ∧ (seeded .xoroshiro64Star #v[0, 0]).nonzero = false ∧
    shown (exec .readState (seeded .xoroshiro64Star #v[1, 2])) = some (0#2, 8#7, 0x0000000200000001#512) ∧
    shown (exec .readState (seeded .xoroshiro64Star #v[0, 0])) = some (0#2, 8#7, 0#512) := by decide +kernel

-- CommandFrames: a command that writes neither `S` nor `sm`, with its next state.
theorem witness_CommandFrames : ∃ s t : State, exec .status s = .next t ∧ writesWords .status = false ∧
    writesSm .status = false := by
  obtain ⟨t, ht⟩ := exec_answers_next .status (fresh .xoroshiro128Plus)
  exact ⟨_, t, ht, by decide⟩

-- ZeroStateIsNeitherReachedNorLeft: a nonzero state and the all-zero one, under a command of each list.
theorem witness_ZeroStateIsNeitherReachedNorLeft :
    (∃ t, exec .next (seeded .xoshiro128Plus #v[0, 0, 0, 1]) = .next t) ∧
    (seeded .xoshiro128Plus #v[0, 0, 0, 1]).nonzero = true ∧
    (∃ t, exec .jump (seeded .xoshiro128Plus (zeroWords 32 4)) = .next t) ∧
    (seeded .xoshiro128Plus (zeroWords 32 4)).gen.words = some (zeroWords 32 4) :=
  ⟨exec_answers_next _ _, by decide +kernel, exec_answers_next _ _, rfl⟩

-- UnusedArgumentPortsHaveNoEffect: two offers of `next` that differ on both argument ports.
theorem witness_UnusedArgumentPortsHaveNoEffect : ∃ (s t u : State) (a b : Request), a ≠ b ∧
    sameOffer s.gen.variant a b = true ∧ s.accept a = .next t ∧ s.accept b = .next u := by
  obtain ⟨t, ht⟩ := next_of_isSome (o := State.accept (seeded .xoroshiro128Plus #v[1, 2])
    ⟨0x32#8, Args.zero⟩) (by decide +kernel)
  obtain ⟨u, hu⟩ := next_of_isSome (o := State.accept (seeded .xoroshiro128Plus #v[1, 2])
    ⟨0x32#8, ⟨1#64, 1#512⟩⟩) (by decide +kernel)
  exact ⟨_, t, u, _, _, by decide +kernel, by decide +kernel, ht, hu⟩

-- BlockDependsOnlyOnArchitecturalState: two blocks with different ports sampled before.
theorem witness_BlockDependsOnlyOnArchitecturalState : ∃ s t : State, s ≠ t ∧ s.sameBlock t = true ∧
    s.inputs = t.inputs ∧ s.offered = t.offered :=
  ⟨offering .xoroshiro128Plus #v[1, 2] 0x32#8,
    { offering .xoroshiro128Plus #v[1, 2] 0x32#8 with sampled := ⟨1#64, 1#512⟩ }, by decide +kernel⟩

-- InstancesAreIndependent: a transaction on the second of two instances.
theorem witness_InstancesAreIndependent :
    ((System.mk [fresh .xoroshiro128Plus, seeded .xoshiro128Plus #v[1, 2, 3, 4]]).transact 1
      (.plain .next)).isSome = true ∧ 0 ≠ 1 := by decide +kernel

-- RunOverEdgesIsTheRunOfItsCommands: a host that lets a response wait, and answers both.
theorem witness_RunOverEdgesIsTheRunOfItsCommands :
    (drawing [Slot.takeOnly (.plain .next)]).rsp = none ∧
    ((drawing [Slot.takeOnly (.plain .next)]).run.map fun z => (z.ending, z.commands)) =
      some (.answered, [.plain .next, .plain .next]) := by decide +kernel

end Sys2Proof.Tests
end

