-- ==== Sys2Proof/Proofs/Scope.lean ====
section
/-! SUPPORT. The statements that rest on spec/00_scope.md: the two ways a command ends (R14), the fixed
configuration (R6, R8) and the jump polynomial as a polynomial in the update map (R15). -/

namespace Sys2Proof.Machine

/-- R14, R83: `respond` writes the response ports and gives up the sampled ones. -/
theorem State.respond_eq (s : State) (n : Nat) (x : Lanes) :
    s.respond n x = { s with sampled := Args.zero, rsp := some ⟨none, BitVec.ofNat 7 n, x⟩ } := rfl

/-- R274: `raise` records the error, answers with it and gives up the sampled ports. -/
theorem State.raise_eq (s : State) (e : Err) :
    s.raise e = { s with
      sampled := Args.zero
      sticky := s.sticky.record e
      rsp := some ⟨some e, 0#7, 0#512⟩ } := rfl

/-- Settles O16: each ending of a command is its equation, for each kind of error. -/
theorem respondAndRaiseEndACommand : Obligations.RespondAndRaiseEndACommand := by
  intro s
  exact ⟨s.respond_eq, s.raise_eq .invalidSeed, s.raise_eq .illegalCommand, s.raise_eq .unseeded,
    by decide⟩

/-- No edge rebuilds the block: reset, a waiting response and an accepted command all keep the variant and the
parameters. -/
theorem State.edge_keeps_configuration {s t : State} {q : Slot} (h : s.edge q = .next t) :
    t.gen.variant = s.gen.variant ∧ t.params = s.params := by
  rcases s.edge_cases q with
    ⟨_, e⟩ | ⟨_, _, e⟩ | ⟨_, _, _, e⟩ | ⟨_, _, _, _, e⟩ | ⟨_, _, _, _, e⟩
  · cases e.symm.trans h
    exact ⟨rfl, rfl⟩
  · cases e.symm.trans h
  · cases e.symm.trans h
    dsimp only
    split <;> split <;> exact ⟨rfl, rfl⟩
  · obtain ⟨u, hu, _, hv, hp, _⟩ := s.accept_responds q.req
    cases hu.symm.trans (e.symm.trans h)
    exact ⟨hv, hp⟩
  · cases e.symm.trans h
    exact ⟨rfl, rfl⟩

/-- Settles O15: a step is an edge, or changes nothing. -/
theorem configurationNeverChanges : Obligations.ConfigurationNeverChanges := by
  intro s t h
  rcases hi : s.inputs with _ | ⟨q, qs⟩
  · cases (step_nil hi).symm.trans h
    exact ⟨rfl, rfl⟩
  · exact State.edge_keeps_configuration (s := { s with inputs := qs }) ((step_cons hi).symm.trans h)

/-- The bits of a word list, word 0 and bit 0 first: bit `m` is bit `m mod w` of word `m div w` (R227). -/
theorem flatMap_bits_eq_map_range {w : Nat} (l : List (BitVec w)) :
    (l.flatMap fun x => (List.range w).map fun b => x.getLsbD b) =
      (List.range (l.length * w)).map fun m => (l.getD (m / w) 0#w).getLsbD (m % w) := by
  induction l with
  | nil => simp
  | cons x l ih =>
    rw [List.flatMap_cons, ih, List.length_cons, Nat.succ_mul, Nat.add_comm, List.range_add, List.map_append,
      List.map_map]
    congr 1
    · refine List.map_congr_left fun m hm => ?_
      have hm : m < w := List.mem_range.1 hm
      simp [Nat.div_eq_of_lt hm, Nat.mod_eq_of_lt hm]
    · refine List.map_congr_left fun m hm => ?_
      have hw : 0 < w := Nat.pos_of_mul_pos_left (Nat.zero_lt_of_lt (List.mem_range.1 hm))
      simp [Nat.add_div_left m hw]

/-- The scan order of R221 in the numbering of R227. -/
theorem scanBits_eq_map_range (v : Variant) (j : Words v) :
    scanBits v j = (List.range v.SB).map fun m => (j.toList.getD (m / v.W) 0#v.W).getLsbD (m % v.W) := by
  rw [scanBits, flatMap_bits_eq_map_range, Vector.length_toList]

/-- The last bit of a scan adds the working copy after as many steps as there are bits before it. -/
theorem jumpScan_append_singleton (v : Variant) (bs : List Bool) (b : Bool) (acc live : Words v) :
    jumpScan v (bs ++ [b]) acc live =
      if b then xorWords (jumpScan v bs acc live) ((advance v)^[bs.length] live)
      else jumpScan v bs acc live := by
  induction bs generalizing acc live with
  | nil => rfl
  | cons a bs ih => exact ih _ (advance v live)

/-- The loop of R221 adds `T^m` of the working copy for each bit `m` that is 1. -/
theorem jumpScan_map_range (v : Variant) (f : Nat → Bool) (n : Nat) (acc live : Words v) :
    jumpScan v ((List.range n).map f) acc live =
      ((List.range n).filter f).foldl (fun acc m => xorWords acc ((advance v)^[m] live)) acc := by
  induction n with
  | zero => rfl
  | succ n ih =>
    rw [List.range_succ, List.map_append, List.map_singleton, jumpScan_append_singleton, ih,
      List.length_map, List.length_range, List.filter_append, List.foldl_append]
    cases hf : f n <;> simp [hf]

/-- Settles O43: the scan of R221, in the bit numbering of R227, is a sum of powers of `T`. -/
theorem jumpIsItsPolynomialInTheUpdate : Obligations.JumpIsItsPolynomialInTheUpdate := by
  intro v p w
  rw [jumpState, scanBits_eq_map_range, jumpScan_map_range]

end Sys2Proof.Machine
end

section
/-! SUPPORT. The statements that rest on spec/10_state.md: what is in `STATUS` (R34), which step may change a
register or a flag (R30, R31, R33, R35), and the all-zero state (R32). The last needs the update map and the
jump as linear maps, and the seed expander. -/

/-! ## The update map (R122 to R126) -/

namespace Sys2Proof.Machine

/-- Bit `i` of a rotation comes from `k` places below, or wraps round from the top. -/
theorem getLsbD_rotl {w : Nat} (x : BitVec w) (k : Nat) {i : Nat} (hi : i < w) :
    (rotl x k).getLsbD i = if i < k then x.getLsbD (w - k + i) else x.getLsbD (i - k) := by
  have above : ¬i < k → x.getLsbD (w - k + i) = false := fun h => BitVec.getLsbD_of_ge _ _ (by omega)
  simp only [rotl, BitVec.getLsbD_or, BitVec.getLsbD_shiftLeft, BitVec.getLsbD_ushiftRight, hi]
  by_cases h : i < k
  · simp [h]
  · simp [h, above h]

/-- Rotation is linear. -/
theorem rotl_xor {w : Nat} (x y : BitVec w) (k : Nat) : rotl (x ^^^ y) k = rotl x k ^^^ rotl y k := by
  refine BitVec.eq_of_getLsbD_eq fun i hi => ?_
  simp only [BitVec.getLsbD_xor, getLsbD_rotl _ _ hi]
  split <;> rfl

/-- Rotation loses no bit. -/
theorem rotl_eq_zero {w k : Nat} (hk : k ≤ w) {x : BitVec w} (h : rotl x k = 0#w) : x = 0#w := by
  refine BitVec.eq_of_getLsbD_eq fun j hj => ?_
  have bit : ∀ i < w, (if i < k then x.getLsbD (w - k + i) else x.getLsbD (i - k)) = false := by
    intro i hi
    rw [← getLsbD_rotl _ _ hi, h, BitVec.getLsbD_zero]
  rw [BitVec.getLsbD_zero]
  rcases Nat.lt_or_ge j (w - k) with hjk | hjk
  · simpa using bit (j + k) (by omega)
  · simpa [show j - (w - k) < k by omega, show w - k + (j - (w - k)) = j by omega] using
      bit (j - (w - k)) (by omega)

theorem step2_xorWords {w : Nat} (k : Nat × Nat × Nat) (x y : Vector (BitVec w) 2) :
    step2 k (xorWords x y) = xorWords (step2 k x) (step2 k y) := by
  refine Vector.ext fun i hi => ?_
  interval_cases i <;> simp [step2, rotl_xor, BitVec.shiftLeft_xor_distrib] <;> ac_rfl

theorem step4_xorWords {w : Nat} (k : Nat × Nat) (x y : Vector (BitVec w) 4) :
    step4 k (xorWords x y) = xorWords (step4 k x) (step4 k y) := by
  refine Vector.ext fun i hi => ?_
  interval_cases i <;> simp [step4, rotl_xor, BitVec.shiftLeft_xor_distrib] <;> ac_rfl

theorem step8_xorWords {w : Nat} (k : Nat × Nat) (x y : Vector (BitVec w) 8) :
    step8 k (xorWords x y) = xorWords (step8 k x) (step8 k y) := by
  refine Vector.ext fun i hi => ?_
  interval_cases i <;> simp [step8, rotl_xor, BitVec.shiftLeft_xor_distrib] <;> ac_rfl

/-- The update map is linear (R126). -/
theorem advance_xorWords (v : Variant) (x y : Words v) :
    advance v (xorWords x y) = xorWords (advance v x) (advance v y) := by
  cases v with
  | xoroshiro128Plus | xoroshiro128StarStar => exact step2_xorWords (w := 64) xoroshiro128Amounts x y
  | xoshiro256Plus | xoshiro256StarStar => exact step4_xorWords (w := 64) xoshiro256Amounts x y
  | xoshiro512Plus | xoshiro512StarStar => exact step8_xorWords (w := 64) xoshiro512Amounts x y
  | xoroshiro64Star | xoroshiro64StarStar => exact step2_xorWords (w := 32) xoroshiro64Amounts x y
  | xoshiro128Plus | xoshiro128StarStar => exact step4_xorWords (w := 32) xoshiro128Amounts x y

/-- The update map fixes the all-zero state (R126). -/
theorem advance_zeroWords (v : Variant) : advance v (zeroWords v.W v.N) = zeroWords v.W v.N :=
  Laws.linear_zero (Laws.xorSpace_words v.W v.N) (advance_xorWords v)

/-- The all-zero word list, word by word. -/
theorem eq_zeroWords_iff {w n : Nat} {x : Vector (BitVec w) n} :
    x = zeroWords w n ↔ ∀ (i : Nat) (h : i < n), x[i] = 0#w := by
  constructor
  · rintro rfl i h
    exact zeroWords_getElem i h
  · exact fun h => Vector.ext fun i hi => by rw [h i hi, zeroWords_getElem]

theorem step2_eq_zero {w a b c : Nat} (ha : a ≤ w) (hc : c ≤ w) {x : Vector (BitVec w) 2}
    (h : step2 (a, b, c) x = zeroWords w 2) : x = zeroWords w 2 := by
  rw [eq_zeroWords_iff] at h
  have h01 : x[1] = x[0] := by simpa using rotl_eq_zero hc (h 1 (by decide))
  have h0 : x[0] = 0#w := rotl_eq_zero ha (by simpa [step2, h01] using h 0 (by decide))
  refine eq_zeroWords_iff.2 fun i hi => ?_
  interval_cases i <;> simp [h01, h0]

/-- A shift to the left moves the lowest 1 of a word up. -/
theorem eq_zero_of_eq_shiftLeft {w a : Nat} (ha : 0 < a) {x : BitVec w} (h : x = x <<< a) : x = 0#w := by
  have bit : ∀ i, x.getLsbD i = false := by
    intro i
    induction i using Nat.strong_induction_on with
    | _ i ih =>
      rw [h, BitVec.getLsbD_shiftLeft]
      by_cases hi : i < a
      · simp [hi]
      · rw [ih (i - a) (by omega), Bool.and_false]
  exact BitVec.eq_of_getLsbD_eq fun i _ => by rw [bit, BitVec.getLsbD_zero]

theorem step4_eq_zero {w a b : Nat} (ha : 0 < a) (hb : b ≤ w) {x : Vector (BitVec w) 4}
    (h : step4 (a, b) x = zeroWords w 4) : x = zeroWords w 4 := by
  rw [eq_zeroWords_iff] at h
  have h3 : x[3] = x[1] := by simpa using rotl_eq_zero hb (h 3 (by decide))
  have h0 : x[0] = 0#w := by simpa [step4, h3] using h 0 (by decide)
  have h1 : x[1] = x[2] := by simpa [step4, h0] using h 1 (by decide)
  have h2 : x[2] = 0#w := eq_zero_of_eq_shiftLeft ha (by simpa [step4, h0, h1] using h 2 (by decide))
  refine eq_zeroWords_iff.2 fun i hi => ?_
  interval_cases i <;> simp [h0, h1, h2, h3]

theorem step8_eq_zero {w a b : Nat} (hb : b ≤ w) {x : Vector (BitVec w) 8}
    (h : step8 (a, b) x = zeroWords w 8) : x = zeroWords w 8 := by
  rw [eq_zeroWords_iff] at h
  have h7 : x[7] = x[3] := by simpa using rotl_eq_zero hb (h 7 (by decide))
  have h5 : x[5] = x[1] := by simpa [step8] using h 5 (by decide)
  have h4 : x[4] = 0#w := by simpa [step8, h5] using h 4 (by decide)
  have h3 : x[3] = 0#w := by simpa [step8, h4] using h 3 (by decide)
  have h2 : x[2] = x[0] := by simpa [step8] using h 2 (by decide)
  have h1 : x[1] = 0#w := by simpa [step8, h2] using h 1 (by decide)
  have h6 : x[6] = 0#w := by simpa [step8, h7, h1] using h 6 (by decide)
  have h0 : x[0] = 0#w := by simpa [step8, h6] using h 0 (by decide)
  refine eq_zeroWords_iff.2 fun i hi => ?_
  interval_cases i <;> simp [h0, h1, h2, h3, h4, h5, h6, h7]

/-- The update map sends no other state to the all-zero one (R126). -/
theorem advance_eq_zero {v : Variant} {x : Words v} (h : advance v x = zeroWords v.W v.N) :
    x = zeroWords v.W v.N := by
  cases v with
  | xoroshiro128Plus | xoroshiro128StarStar => exact step2_eq_zero (w := 64) (by decide) (by decide) h
  | xoshiro256Plus | xoshiro256StarStar => exact step4_eq_zero (w := 64) (by decide) (by decide) h
  | xoshiro512Plus | xoshiro512StarStar => exact step8_eq_zero (w := 64) (by decide) h
  | xoroshiro64Star | xoroshiro64StarStar => exact step2_eq_zero (w := 32) (by decide) (by decide) h
  | xoshiro128Plus | xoshiro128StarStar => exact step4_eq_zero (w := 32) (by decide) (by decide) h

end Sys2Proof.Machine

/-! ## Many states side by side -/

namespace Sys2Proof.Laws
open Machine

/-- A map that commutes with the sums and with the linear maps commutes with every polynomial in them. -/
theorem evalAt_hom {V V' : Type} {add : V → V → V} {z : V} {T : V → V} {add' : V' → V' → V'} {z' : V'}
    {T' : V' → V'} {g : V' → V} (hz : g z' = z) (hadd : ∀ x y, g (add' x y) = add (g x) (g y))
    (hT : ∀ x, g (T' x) = T (g x)) (n r : Nat) (x : V') :
    g (evalAt add' z' T' n r x) = evalAt add z T n r (g x) := by
  induction n generalizing r with
  | zero => exact hz
  | succ n ih => rw [evalAt, evalAt, hadd, hT, ih, apply_ite g, hz]

/-- A word of lane `l`: bit `b` is bit `b·m + l` of the wide word, which carries `m` words side by side. -/
def lane {w m : Nat} (l : Nat) (x : BitVec (w * m)) : BitVec w :=
  BitVec.ofFnLE fun b => x.getLsbD (b.val * m + l)

/-- The word list of lane `l`. -/
def laneWords {w m n : Nat} (l : Nat) (x : Vector (BitVec (w * m)) n) : Vector (BitVec w) n := x.map (lane l)

theorem lane_getLsbD {w m l i : Nat} (x : BitVec (w * m)) (hi : i < w) :
    (lane l x).getLsbD i = x.getLsbD (i * m + l) := by simp [lane, hi]

theorem lane_zero {w m l : Nat} : lane l 0#(w * m) = 0#w :=
  BitVec.eq_of_getLsbD_eq fun i hi => by simp [lane_getLsbD _ hi]

theorem lane_xor {w m l : Nat} (x y : BitVec (w * m)) : lane l (x ^^^ y) = lane l x ^^^ lane l y :=
  BitVec.eq_of_getLsbD_eq fun i hi => by simp only [BitVec.getLsbD_xor, lane_getLsbD _ hi]

/-- The bits of one lane lie within the wide word. -/
theorem lane_index_lt {w m l i : Nat} (hl : l < m) (hi : i < w) : i * m + l < w * m :=
  calc i * m + l < i * m + m := by omega
    _ = (i + 1) * m := (Nat.succ_mul i m).symm
    _ ≤ w * m := Nat.mul_le_mul_right m hi

/-- Moving by whole rows keeps the lane. -/
theorem lane_index_lt_iff {m l i a : Nat} (hl : l < m) : i * m + l < a * m ↔ i < a := by
  constructor
  · intro h
    by_contra hge
    have := Nat.mul_le_mul_right m (Nat.not_lt.1 hge)
    omega
  · exact lane_index_lt hl

theorem lane_shiftLeft {w m l : Nat} (hl : l < m) (x : BitVec (w * m)) (a : Nat) :
    lane l (x <<< (a * m)) = lane l x <<< a := by
  refine BitVec.eq_of_getLsbD_eq fun i hi => ?_
  rw [lane_getLsbD _ hi, BitVec.getLsbD_shiftLeft, BitVec.getLsbD_shiftLeft,
    lane_getLsbD _ (by omega : i - a < w)]
  simp only [lane_index_lt hl hi, hi, lane_index_lt_iff hl]
  rcases Nat.lt_or_ge i a with h | h
  · simp [h]
  · rw [Nat.sub_mul, Nat.sub_add_comm (Nat.mul_le_mul_right m h)]

theorem lane_rotl {w m l k : Nat} (hl : l < m) (x : BitVec (w * m)) :
    lane l (rotl x (k * m)) = rotl (lane l x) k := by
  refine BitVec.eq_of_getLsbD_eq fun i hi => ?_
  rw [lane_getLsbD _ hi, getLsbD_rotl _ _ (lane_index_lt hl hi), getLsbD_rotl _ _ hi]
  simp only [lane_index_lt_iff hl]
  rcases Nat.lt_or_ge i k with h | h
  · rw [if_pos h, if_pos h, lane_getLsbD _ (by omega), Nat.add_mul, Nat.sub_mul, Nat.add_assoc]
  · rw [if_neg (by omega), if_neg (by omega), lane_getLsbD _ (by omega), Nat.sub_mul,
      Nat.sub_add_comm (Nat.mul_le_mul_right m h)]

theorem laneWords_getElem {w m n l i : Nat} (x : Vector (BitVec (w * m)) n) (hi : i < n) :
    (laneWords l x)[i] = lane l x[i] := Vector.getElem_map _ hi

theorem laneWords_zeroWords (w m n l : Nat) : laneWords l (zeroWords (w * m) n) = zeroWords w n :=
  Vector.ext fun i hi => by rw [laneWords_getElem, zeroWords_getElem, zeroWords_getElem, lane_zero]

theorem laneWords_xorWords {w m n l : Nat} (x y : Vector (BitVec (w * m)) n) :
    laneWords l (xorWords x y) = xorWords (laneWords l x) (laneWords l y) :=
  Vector.ext fun i hi => by simp only [laneWords_getElem, xorWords_getElem, lane_xor]

section

variable {w m l : Nat} (hl : l < m)

include hl

/-- One wide step is one step of every lane. -/
theorem laneWords_step2 (a b c : Nat) (x : Vector (BitVec (w * m)) 2) :
    laneWords l (step2 (a * m, b * m, c * m) x) = step2 (a, b, c) (laneWords l x) := by
  refine Vector.ext fun i hi => ?_
  interval_cases i <;> simp [step2, laneWords_getElem, lane_xor, lane_shiftLeft hl, lane_rotl hl]

theorem laneWords_step4 (a b : Nat) (x : Vector (BitVec (w * m)) 4) :
    laneWords l (step4 (a * m, b * m) x) = step4 (a, b) (laneWords l x) := by
  refine Vector.ext fun i hi => ?_
  interval_cases i <;> simp [step4, laneWords_getElem, lane_xor, lane_shiftLeft hl, lane_rotl hl]

theorem laneWords_step8 (a b : Nat) (x : Vector (BitVec (w * m)) 8) :
    laneWords l (step8 (a * m, b * m) x) = step8 (a, b) (laneWords l x) := by
  refine Vector.ext fun i hi => ?_
  interval_cases i <;> simp [step8, laneWords_getElem, lane_xor, lane_shiftLeft hl, lane_rotl hl]

end

/-- A row and a lane are told apart by the index of their bit. -/
theorem lane_index_inj {m q q' l l' : Nat} (hl : l < m) (hl' : l' < m) (h : q * m + l = q' * m + l') :
    q = q' ∧ l = l' := by
  have le : ∀ {a b x y : Nat}, x < m → y < m → a * m + x = b * m + y → a ≤ b := fun hx hy h =>
    Nat.lt_succ_iff.1 ((lane_index_lt_iff hx).1 (h ▸ lane_index_lt hy (Nat.lt_succ_self _)))
  obtain rfl : q = q' := Nat.le_antisymm (le hl hl' h) (le hl' hl h.symm)
  exact ⟨rfl, Nat.add_left_cancel h⟩

/-- The number whose ones are the bits `0, k, 2k, ...`, `n` of them. -/
def spacedOnes (k : Nat) : (n : Nat) → Nat
  | 0 => 0
  | n + 1 => spacedOnes k n ||| 2 ^ (n * k)

theorem spacedOnes_testBit (k n j : Nat) : (spacedOnes k n).testBit j = decide (∃ c < n, j = c * k) := by
  induction n with
  | zero => simp [spacedOnes]
  | succ n ih =>
    rw [spacedOnes, Nat.testBit_or, ih, Nat.testBit_two_pow, Bool.eq_iff_iff]
    simp only [Bool.or_eq_true, decide_eq_true_eq, Nat.lt_succ_iff_lt_or_eq, or_and_right, exists_or,
      exists_eq_left]
    rw [eq_comm (a := n * k)]

/-- All `n·w` unit word lists side by side: lane `i·w + b` holds bit `b` of word `i` and nothing else. -/
def unitLanes (w n : Nat) : Vector (BitVec (w * (n * w))) n :=
  Vector.ofFn fun i => BitVec.ofNat _ (spacedOnes (n * w + 1) w <<< (i.val * w))

theorem laneWords_unitLanes {w n i b : Nat} (hi : i < n) (hb : b < w) :
    laneWords (i * w + b) (unitLanes w n) = unitWords w n i b := by
  refine Vector.ext fun j hj => BitVec.eq_of_getLsbD_eq fun c hc => ?_
  have hl : i * w + b < n * w := lane_index_lt hb hi
  have hlt : c * (n * w) + (i * w + b) < w * (n * w) := lane_index_lt hl hc
  have key : (j * w ≤ c * (n * w) + (i * w + b) ∧
      ∃ d < w, c * (n * w) + (i * w + b) - j * w = d * (n * w + 1)) ↔ j = i ∧ c = b := by
    constructor
    · rintro ⟨hle, d, hd, h⟩
      obtain ⟨rfl, h⟩ := lane_index_inj (q := c) (q' := d) hl (lane_index_lt hd hj)
        (by rw [Nat.mul_succ] at h; omega)
      obtain ⟨rfl, rfl⟩ := lane_index_inj hb hd h
      exact ⟨rfl, rfl⟩
    · rintro ⟨rfl, rfl⟩
      exact ⟨by omega, c, hb, by rw [Nat.mul_succ]; omega⟩
  rw [laneWords_getElem, lane_getLsbD _ hc]
  simp only [unitLanes, unitWords, Vector.getElem_ofFn, BitVec.getLsbD_ofNat, hlt, decide_true, Bool.true_and,
    Nat.testBit_shiftLeft, spacedOnes_testBit, ← Bool.decide_and, ge_iff_le, key]
  by_cases hji : j = i <;> simp [hji, hc, eq_comm]

/-- Two word lists whose sum is zero are equal. -/
theorem xorWords_eq_zeroWords_iff {w n : Nat} {x y : Vector (BitVec w) n} :
    xorWords x y = zeroWords w n ↔ x = y := by
  rw [eq_zeroWords_iff]
  constructor
  · exact fun h => Vector.ext fun i hi => by simpa using h i hi
  · rintro rfl i hi
    simp

/-- The word-wise exclusive or by recursion on lists, which the kernel evaluates fast. -/
def xorLists {w n : Nat} (x y : Vector (BitVec w) n) : Vector (BitVec w) n :=
  ⟨⟨List.zipWith (· ^^^ ·) x.toList y.toList⟩, by simp⟩

theorem xorWords_eq_xorLists (w n : Nat) : xorWords (w := w) (n := n) = xorLists := by
  funext x y
  exact Vector.ext fun i hi => by simp [xorLists]

/-- At every unit word list, the polynomial `u` at the wide step `T'` undoes the polynomial `r`. -/
def undoesOnUnits (w n : Nat) (T' : Vector (BitVec (w * (n * w))) n → Vector (BitVec (w * (n * w))) n)
    (u r : Nat) : Bool :=
  evalAt xorLists (zeroWords _ n) T' (n * w) u (evalAt xorLists (zeroWords _ n) T' (n * w) r (unitLanes w n)) ==
    unitLanes w n

/-- Where `T'` is `T` on every lane, a polynomial that undoes another at the unit word lists does so
everywhere. -/
theorem evalAt_evalAt_of_undoesOnUnits {w n : Nat} {T : Vector (BitVec w) n → Vector (BitVec w) n}
    {T' : Vector (BitVec (w * (n * w))) n → Vector (BitVec (w * (n * w))) n}
    (hT : ∀ x y, T (xorWords x y) = xorWords (T x) (T y))
    (hlane : ∀ l < n * w, ∀ x, laneWords l (T' x) = T (laneWords l x)) {u r : Nat}
    (h : undoesOnUnits w n T' u r = true) (x : Vector (BitVec w) n) :
    evalAt xorWords (zeroWords w n) T (n * w) u (evalAt xorWords (zeroWords w n) T (n * w) r x) = x := by
  have S := xorSpace_words w n
  refine xorWords_eq_zeroWords_iff.1 (eq_zero_of_units S
    (f := fun x => xorWords (evalAt xorWords (zeroWords w n) T (n * w) u
      (evalAt xorWords (zeroWords w n) T (n * w) r x)) x)
    (fun x y => ?_) (fun i hi b hb => ?_) x)
  · simp only [evalAt_add S hT, S.add_add_add_comm]
  · have hl : i * w + b < n * w := lane_index_lt hb hi
    have hom := evalAt_hom (laneWords_zeroWords w (n * w) n (i * w + b)) laneWords_xorWords (hlane _ hl) (n * w)
    rw [undoesOnUnits, ← xorWords_eq_xorLists] at h
    have unit := congrArg (laneWords (i * w + b)) (eq_of_beq h)
    rw [hom, hom, laneWords_unitLanes hi hb] at unit
    exact xorWords_eq_zeroWords_iff.2 unit

end Sys2Proof.Laws

/-! ## The jump as a linear map (R221, R226) -/

namespace Sys2Proof.Laws
open Machine

/-- The number whose base `2^w` digits are these words, word 0 lowest (R227). -/
def packWords {w : Nat} (l : List (BitVec w)) : Nat := l.foldr (fun x acc => 2 ^ w * acc + x.toNat) 0

theorem packWords_testBit {w : Nat} (hw : 0 < w) (l : List (BitVec w)) (m : Nat) :
    (packWords l).testBit m = (l.getD (m / w) 0#w).getLsbD (m % w) := by
  induction l generalizing m with
  | nil => simp [packWords]
  | cons x l ih =>
    rw [packWords, List.foldr_cons, ← packWords, Nat.testBit_two_pow_mul_add _ x.isLt]
    split
    · rename_i h
      rw [Nat.div_eq_of_lt h, Nat.mod_eq_of_lt h]
      rfl
    · rename_i h
      obtain ⟨e, rfl⟩ := Nat.exists_eq_add_of_le (Nat.not_lt.1 h)
      rw [Nat.add_sub_cancel_left, ih, Nat.add_div_left _ hw, Nat.add_mod_left]
      rfl

/-- The jump is the polynomial of its table at the update map. -/
theorem jumpState_eq_evalAt (v : Variant) (p : Params) (x : Words v) :
    jumpState v p x =
      evalAt xorWords (zeroWords v.W v.N) (advance v) v.SB (packWords (jumpPoly v p).toList) x := by
  have hw : 0 < v.W := by cases v <;> decide
  rw [jumpState, scanBits_eq_map_range, jumpScan_map_range]
  simp only [← packWords_testBit hw]
  rw [foldl_filter_eq (xorSpace_words v.W v.N) (advance_xorWords v), zeroWords_xorWords]

/-- A jump leaves the all-zero state as it is. -/
theorem jumpState_zeroWords (v : Variant) (p : Params) :
    jumpState v p (zeroWords v.W v.N) = zeroWords v.W v.N := by
  have S := xorSpace_words v.W v.N
  rw [jumpState_eq_evalAt, linear_zero S (evalAt_add S (advance_xorWords v) _ _)]

/-! The inverse of each jump polynomial modulo the characteristic polynomial, found outside and checked here:
only that it undoes the jump counts. The amounts of a wide step are those of R121 times the number of lanes. -/

theorem xoroshiro128Jump_undone :
    undoesOnUnits 64 2 (step2 (24 * (2 * 64), 16 * (2 * 64), 37 * (2 * 64)))
      (packWords [0x38790d3e32e2dc33#64, 0x175b5cd55018b10b#64])
      (packWords xoroshiro128Jump.toList) = true := by decide +kernel

theorem xoshiro256Jump128_undone :
    undoesOnUnits 64 4 (step4 (17 * (4 * 64), 45 * (4 * 64)))
      (packWords [0xe4f165c97b5587ed#64, 0xd272429846ce3eef#64, 0x227f6f8892c33391#64, 0xda8cc53a9a74b263#64])
      (packWords xoshiro256Jump128.toList) = true := by decide +kernel

theorem xoshiro256Jump64_undone :
    undoesOnUnits 64 4 (step4 (17 * (4 * 64), 45 * (4 * 64)))
      (packWords [0x4ae17cdfa31ca54b#64, 0x450d3e313a56bc61#64, 0x086bc61a7f4218ee#64, 0x0b68cb232e437c61#64])
      (packWords xoshiro256Jump64.toList) = true := by decide +kernel

theorem xoshiro512Jump_undone :
    undoesOnUnits 64 8 (step8 (11 * (8 * 64), 21 * (8 * 64)))
      (packWords [0x0c19be58f09bfbca#64, 0x0760c5c0e20f1a79#64, 0xdee503569a215077#64, 0x86f4dce60d7452e4#64,
        0x6a090797e32856fc#64, 0xf44c9686ce9f4cc1#64, 0xc4eb49b09bd3d476#64, 0x59942744f59087e7#64])
      (packWords xoshiro512Jump.toList) = true := by decide +kernel

/-- On a 64-bit variant a polynomial in the update map undoes the jump (R226(d)). -/
theorem jumpState_undone {v : Variant} (hv : v.W = 64) (p : Params) :
    ∃ u, ∀ x : Words v,
      evalAt xorWords (zeroWords v.W v.N) (advance v) v.SB u (jumpState v p x) = x := by
  simp only [jumpState_eq_evalAt]
  cases v with
  | xoroshiro128Plus | xoroshiro128StarStar =>
    exact ⟨_, evalAt_evalAt_of_undoesOnUnits (step2_xorWords _) (fun _ hl => laneWords_step2 hl 24 16 37)
      xoroshiro128Jump_undone⟩
  | xoshiro256Plus | xoshiro256StarStar =>
    rcases hp : p.xoshiro256JumpLog2 with _ | _
    · exact ⟨_, fun x => by
        rw [jumpPoly, hp]
        exact evalAt_evalAt_of_undoesOnUnits (step4_xorWords _) (fun _ hl => laneWords_step4 hl 17 45)
          xoshiro256Jump128_undone x⟩
    · exact ⟨_, fun x => by
        rw [jumpPoly, hp]
        exact evalAt_evalAt_of_undoesOnUnits (step4_xorWords _) (fun _ hl => laneWords_step4 hl 17 45)
          xoshiro256Jump64_undone x⟩
  | xoshiro512Plus | xoshiro512StarStar =>
    exact ⟨_, evalAt_evalAt_of_undoesOnUnits (step8_xorWords _) (fun _ hl => laneWords_step8 hl 11 21)
      xoshiro512Jump_undone⟩
  | xoroshiro64Star | xoroshiro64StarStar | xoshiro128Plus | xoshiro128StarStar =>
    exact absurd hv (by decide)

/-- On a 64-bit variant a jump sends no other state to the all-zero one (R226(d)). -/
theorem jumpState_eq_zero {v : Variant} (hv : v.W = 64) {p : Params} {x : Words v}
    (h : jumpState v p x = zeroWords v.W v.N) : x = zeroWords v.W v.N := by
  have S := xorSpace_words v.W v.N
  obtain ⟨u, hu⟩ := jumpState_undone hv p
  rw [← hu x, h, linear_zero S (evalAt_add S (advance_xorWords v) _ _)]

end Sys2Proof.Laws

/-! ## Seeding (R101 to R104, R180 to R185) -/

namespace Sys2Proof.Machine

/-- A shift to the right makes a nonzero word smaller. -/
theorem eq_zero_of_xor_ushiftRight_eq_zero {w k : Nat} (hk : 0 < k) {x : BitVec w} (h : x ^^^ (x >>> k) = 0#w) :
    x = 0#w := by
  have hx := congrArg BitVec.toNat (BitVec.xor_eq_zero_iff.1 h)
  rw [BitVec.toNat_ushiftRight, Nat.shiftRight_eq_div_pow] at hx
  by_contra hne
  have hpos : 0 < x.toNat := Nat.pos_of_ne_zero fun h0 => hne (BitVec.eq_of_toNat_eq (by simpa using h0))
  have := Nat.div_lt_self hpos (Nat.one_lt_two_pow hk.ne')
  omega

/-- A multiplier with an inverse sends only zero to zero. -/
theorem eq_zero_of_mul_eq_zero {w : Nat} {x c d : BitVec w} (hcd : c * d = 1#w) (h : x * c = 0#w) :
    x = 0#w :=
  calc x = x * c * d := by rw [BitVec.mul_assoc, hcd, BitVec.mul_one]
    _ = 0#w := by rw [h, BitVec.zero_mul]

/-- The mix sends no other word to zero: each of its rounds can be undone (R104(b)). -/
theorem mix_eq_zero {z : Word64} (h : mix z = 0#64) : z = 0#64 := by
  have h2 := eq_zero_of_xor_ushiftRight_eq_zero (by decide) h
  have h1 := eq_zero_of_xor_ushiftRight_eq_zero (by decide)
    (eq_zero_of_mul_eq_zero (d := 0x319642b2d24d8ec3#64) (by decide) h2)
  exact eq_zero_of_xor_ushiftRight_eq_zero (by decide)
    (eq_zero_of_mul_eq_zero (d := 0x96de1b173f119089#64) (by decide) h1)

/-- The counter after an expansion. -/
theorem expand_snd (c : Word64) (k : Nat) : (expand c k).2 = c + BitVec.ofNat 64 k * gamma := by
  induction k with
  | zero => simp [expand]
  | succ k ih =>
    simp only [expand, smDraw, ih, BitVec.ofNat_add, BitVec.add_mul, BitVec.add_assoc, BitVec.one_mul]

/-- Output `i` of an expansion is the mix of the counter after `i + 1` draws. -/
theorem expand_fst_getElem (c : Word64) {k i : Nat} (hi : i < k) :
    (expand c k).1[i] = mix (c + BitVec.ofNat 64 (i + 1) * gamma) := by
  induction k with
  | zero => exact absurd hi (Nat.not_lt_zero i)
  | succ k ih =>
    simp only [expand, smDraw, Vector.getElem_push]
    split
    · exact ih _
    · obtain rfl : i = k := by omega
      rw [expand_snd, BitVec.ofNat_add, BitVec.add_mul, BitVec.one_mul, BitVec.add_assoc]

/-- Two successive counter values are not both zero. -/
theorem counter_not_both_zero (c : Word64) :
    ¬(c + BitVec.ofNat 64 1 * gamma = 0#64 ∧ c + BitVec.ofNat 64 2 * gamma = 0#64) := by
  rintro ⟨h1, h2⟩
  have h : BitVec.ofNat 64 1 * gamma = BitVec.ofNat 64 2 * gamma :=
    (BitVec.add_right_inj c).1 (h1.trans h2.symm)
  exact absurd h (by decide)

/-- On a 64-bit variant word `i` of an expansion is draw `i + 1` (R182). -/
theorem expandState_getElem {v : Variant} (hv : v.W = 64) (p : Params) (c : Word64) {i : Nat} (hi : i < v.N) :
    (expandState v p c).1[i] = (mix (c + BitVec.ofNat 64 (i + 1) * gamma)).setWidth v.W := by
  rw [expandState, if_pos hv]
  simp only [wordsOfDraws, Vector.getElem_ofFn, expand_fst_getElem]

/-- On a 64-bit variant no expansion is all zero (R185(a)). -/
theorem expandState_ne_zero {v : Variant} (hv : v.W = 64) (p : Params) (c : Word64) :
    (expandState v p c).1 ≠ zeroWords v.W v.N := by
  intro h
  have hN : 2 ≤ v.N := by cases v <;> decide
  have draw : ∀ i < v.N, c + BitVec.ofNat 64 (i + 1) * gamma = 0#64 := by
    intro i hi
    have hw := (eq_zeroWords_iff.1 h) i hi
    rw [expandState_getElem hv p c hi] at hw
    have hmod := congrArg BitVec.toNat hw
    rw [BitVec.toNat_setWidth, hv, Nat.mod_eq_of_lt (BitVec.isLt _)] at hmod
    exact mix_eq_zero (BitVec.eq_of_toNat_eq (by simpa using hmod))
  exact counter_not_both_zero c ⟨draw 0 (by omega), draw 1 (by omega)⟩

/-- Bytes that make up zero are all zero. -/
theorem fromLE_eq_zero {l : List Byte} (h : fromLE l = 0) : ∀ x ∈ l, x = 0#8 := by
  induction l with
  | nil => simp
  | cons b bs ih =>
    have hb : b.toNat = 0 := by rw [fromLE] at h; omega
    have hbs : fromLE bs = 0 := by rw [fromLE] at h; omega
    exact List.forall_mem_cons.2 ⟨BitVec.eq_of_toNat_eq hb, ih hbs⟩

theorem fromLE_lt (l : List Byte) : fromLE l < 2 ^ (8 * l.length) := by
  induction l with
  | nil => simp [fromLE]
  | cons b bs ih =>
    have := b.isLt
    rw [fromLE, List.length_cons, Nat.mul_succ, Nat.pow_add]
    omega

/-- Seed bytes that decode to the all-zero state are all zero (R180). -/
theorem decodeSeed_eq_zero {v : Variant} {l : List Byte} (hl : l.length = v.L)
    (h : decodeSeed v l = zeroWords v.W v.N) : ∀ x ∈ l, x = 0#8 := by
  have hWB : 8 * v.WB = v.W := by cases v <;> decide
  have chunk : ∀ i < v.N, ∀ x ∈ (l.drop (i * v.WB)).take v.WB, x = 0#8 := by
    intro i hi
    have hw := (eq_zeroWords_iff.1 h) i hi
    have hlt : fromLE ((l.drop (i * v.WB)).take v.WB) < 2 ^ v.W :=
      Nat.lt_of_lt_of_le (fromLE_lt _)
        (Nat.pow_le_pow_right (by decide) (by rw [List.length_take]; omega))
    rw [decodeSeed, Vector.getElem_ofFn] at hw
    have hmod := congrArg BitVec.toNat hw
    rw [BitVec.toNat_ofNat, Nat.mod_eq_of_lt hlt] at hmod
    exact fromLE_eq_zero (by simpa using hmod)
  intro x hx
  obtain ⟨j, hj, rfl⟩ := List.getElem_of_mem hx
  have hpos : 0 < v.WB := by cases v <;> decide
  refine chunk (j / v.WB) (Nat.div_lt_of_lt_mul (by rw [Nat.mul_comm, ← Variant.L, ← hl]; exact hj)) _ ?_
  refine List.mem_iff_getElem.2 ⟨j % v.WB, ?_, ?_⟩
  · have := Nat.mod_lt j hpos
    have := Nat.div_add_mod' j v.WB
    rw [List.length_take, List.length_drop]
    omega
  · simp only [List.getElem_take, List.getElem_drop, Nat.div_add_mod']

/-- `seed_bytes` writes no all-zero state: it refuses the seed that would give one (R32(a), R181). -/
theorem decodeSeed_seedBytes_ne_zero {v : Variant} {a : Lanes}
    (h : (seedBytes v a).all (fun x => x == 0#8) = false) :
    decodeSeed v (seedBytes v a) ≠ zeroWords v.W v.N := by
  intro hz
  obtain ⟨x, hx, hne⟩ := List.all_eq_false.1 h
  exact hne (beq_iff_eq.2 (decodeSeed_eq_zero (by simp [seedBytes, lowBytes]) hz x hx))

end Sys2Proof.Machine

/-! ## What a command and a step can do -/

namespace Sys2Proof.Machine

/-- The words a command may write to `S`, with the conditions under which it writes them (R30). -/
inductive NewWords (s : State) : Instr → Words s.gen.variant → Prop
  | seedBytes (h : (seedBytes s.gen.variant s.sampled.argseed).all (fun x => x == 0#8) = false) :
    NewWords s .seedBytes (decodeSeed s.gen.variant (seedBytes s.gen.variant s.sampled.argseed))
  | seedU64 : NewWords s .seedU64 (expandState s.gen.variant s.params s.sampled.arg64).1
  | seedSm (c : Word64) : NewWords s .seedSm (expandState s.gen.variant s.params c).1
  | step {w} (h : s.gen.words = some w) : NewWords s .step (advance s.gen.variant w)
  | next {w} (h : s.gen.words = some w) : NewWords s .next (nativeDraw s.gen.variant w).2
  | nextU32 {w} (h : s.gen.words = some w) : NewWords s .nextU32 (nativeDraw s.gen.variant w).2
  | nextU64 {w} (h : s.gen.words = some w) : NewWords s .nextU64 (draw64 s.gen.variant s.params w).2
  | jump {w} (h : s.gen.words = some w) : NewWords s .jump (jumpState s.gen.variant s.params w)

/-- What a command does to the registers before it responds. -/
inductive Effect (s : State) (i : Instr) : State → Prop
  | keep : Effect s i s
  | setWords {w : Words s.gen.variant} (h : NewWords s i w) : Effect s i (s.setWords w)
  | setSm (c : Word64) (h : writesSm i = true) : Effect s i (s.setSm c)
  | setBoth {w : Words s.gen.variant} (hw : NewWords s i w) (c : Word64) (h : writesSm i = true) :
    Effect s i ((s.setWords w).setSm c)
  | clearSticky (h : i = .statusClr) : Effect s i { s with sticky := Sticky.clear }

/-- How a command ends: with an error and nothing else, or with a response after its effect (R14, R274). -/
inductive Result (s : State) (i : Instr) : State → Prop
  | raised (e : Err) : Result s i (s.raise e)
  | responded {u : State} (h : Effect s i u) (n : Nat) (x : Lanes) : Result s i (u.respond n x)

theorem Result.withWords {s : State} {i : Instr} {f : Words s.gen.variant → State}
    (hf : ∀ w, s.gen.words = some w → Result s i (f w)) : Result s i (s.withWords f) := by
  rcases s.withWords_cases f with ⟨_, e⟩ | ⟨w, hw, e⟩
  · rw [e]; exact .raised .unseeded
  · rw [e]; exact hf w hw

theorem Result.withSm {s : State} {i : Instr} {f : Word64 → State} (hf : ∀ c, Result s i (f c)) :
    Result s i (s.withSm f) := by
  rcases s.withSm_cases f with ⟨_, e⟩ | ⟨c, _, e⟩
  · rw [e]; exact .raised .unseeded
  · rw [e]; exact hf c

/-- Everything a command can do. -/
theorem exec_result {i : Instr} {s t : State} (h : exec i s = .next t) : Result s i t := by
  cases i with
  | smSeed => cases h; exact .responded (.setSm _ rfl) _ _
  | smNext => cases h; exact .withSm fun c => .responded (.setSm _ rfl) _ _
  | seedBytes =>
    simp only [exec, execSeedBytes, Host.Outcome.next.injEq] at h
    subst h
    split
    · exact .raised _
    · exact .responded (.setWords (.seedBytes (by simp_all))) _ _
  | seedU64 => cases h; exact .responded (.setWords .seedU64) _ _
  | seedSm => cases h; exact .withSm fun c => .responded (.setBoth (.seedSm c) _ rfl) _ _
  | step => cases h; exact .withWords fun w hw => .responded (.setWords (.step hw)) _ _
  | next => cases h; exact .withWords fun w hw => .responded (.setWords (.next hw)) _ _
  | nextU32 => cases h; exact .withWords fun w hw => .responded (.setWords (.nextU32 hw)) _ _
  | nextU64 => cases h; exact .withWords fun w hw => .responded (.setWords (.nextU64 hw)) _ _
  | scramble | readState => cases h; exact .withWords fun w _ => .responded .keep _ _
  | jump =>
    rcases hj : s.jumpPresent with _ | _
    · cases (exec_jump_absent hj).symm.trans h
      exact .raised _
    · cases (exec_jump_present hj).symm.trans h
      exact .withWords fun w hw => .responded (.setWords (.jump hw)) _ _
  | status => cases h; exact .responded .keep _ _
  | statusClr => cases h; exact .responded (.clearSticky rfl) _ _

/-- Only the commands of R30 have words to write. -/
theorem NewWords.writesWords {s : State} {i : Instr} {w : Words s.gen.variant} (h : NewWords s i w) :
    writesWords i = true := by cases h <;> rfl

/-- An effect leaves alone the registers its command does not write (R30, R33). -/
theorem Effect.frame {s u : State} {i : Instr} (h : Effect s i u) :
    (Machine.writesWords i = false → u.gen = s.gen) ∧ (writesSm i = false → u.sm = s.sm) := by
  cases h with
  | keep | clearSticky _ => exact ⟨fun _ => rfl, fun _ => rfl⟩
  | setWords hw => exact ⟨fun hn => by simp [hw.writesWords] at hn, fun _ => rfl⟩
  | setSm c hm => exact ⟨fun _ => rfl, fun hn => by simp [hm] at hn⟩
  | setBoth hw c hm => exact ⟨fun hn => by simp [hw.writesWords] at hn, fun hn => by simp [hm] at hn⟩

/-- A command leaves alone the registers it does not write, and gives up the sampled ports. -/
theorem Result.frame {s t : State} {i : Instr} (h : Result s i t) :
    (Machine.writesWords i = false → t.gen = s.gen) ∧ (writesSm i = false → t.sm = s.sm) ∧
      t.sampled = Args.zero := by
  cases h with
  | raised e => exact ⟨fun _ => rfl, fun _ => rfl, rfl⟩
  | responded hu n x => exact ⟨hu.frame.1, hu.frame.2, rfl⟩

/-- Settles O52: the frame of the registers, and that of the configuration and the host's side. -/
theorem commandFrames : Obligations.CommandFrames := by
  intro i s t h
  obtain ⟨hgen, hsm, hsampled⟩ := (exec_result h).frame
  obtain ⟨_, hvariant, hparams, hoffered, hinputs⟩ := exec_responds h
  exact ⟨hgen, hsm, hvariant, hparams, hsampled, hoffered, hinputs⟩

/-- No effect unseeds a register. -/
theorem Effect.keeps_seeded {s u : State} {i : Instr} (h : Effect s i u) :
    (s.seeded = true → u.seeded = true) ∧ (s.smSeeded = true → u.smSeeded = true) := by
  cases h with
  | keep | clearSticky _ => exact ⟨id, id⟩
  | setWords _ => exact ⟨fun _ => rfl, id⟩
  | setSm c _ => exact ⟨id, fun _ => rfl⟩
  | setBoth _ c _ => exact ⟨fun _ => rfl, fun _ => rfl⟩

/-- No command unseeds a register (R31, R33). -/
theorem Result.keeps_seeded {s t : State} {i : Instr} (h : Result s i t) :
    (s.seeded = true → t.seeded = true) ∧ (s.smSeeded = true → t.smSeeded = true) := by
  cases h with
  | raised e => exact ⟨id, id⟩
  | responded hu n x => exact hu.keeps_seeded

/-- Every sticky bit set in `k` is set in `k'`. -/
def Sticky.le (k k' : Sticky) : Prop :=
  (k.invalidSeed = true → k'.invalidSeed = true) ∧ (k.illegalCommand = true → k'.illegalCommand = true) ∧
    (k.unseeded = true → k'.unseeded = true)

theorem Sticky.le_refl (k : Sticky) : k.le k := ⟨id, id, id⟩

theorem Sticky.le_record (k : Sticky) (e : Err) : k.le (k.record e) := by
  refine ⟨fun h => ?_, fun h => ?_, fun h => ?_⟩ <;> simp [h]

/-- No command but `status_clr` clears a sticky bit (R35). -/
theorem Result.sticky_le {s t : State} {i : Instr} (h : Result s i t) (hi : i ≠ .statusClr) :
    s.sticky.le t.sticky := by
  cases h with
  | raised e => exact s.sticky.le_record e
  | responded hu n x =>
    cases hu with
    | clearSticky hc => exact absurd hc hi
    | keep | setWords _ | setSm _ _ | setBoth _ _ _ => exact s.sticky.le_refl

/-- What a step without reset does to the registers: nothing, or it accepts the word offered, and the command
or `ILLEGAL_COMMAND` does the rest. -/
theorem step_registers {s t : State} {q : Slot} {qs : List Slot} (hq : s.inputs = q :: qs)
    (h : step s = .next t) (hr : q.rst = false) :
    (t.gen = s.gen ∧ t.sm = s.sm ∧ t.sticky = s.sticky) ∨
      (s.rsp = none ∧ q.cmdValid = true ∧ ∃ u : State, u.gen = s.gen ∧ u.sm = s.sm ∧ u.sticky = s.sticky ∧
        (t = u.raise .illegalCommand ∨ ∃ i, opcodeOf q.req.cmd = some i ∧ Result u i t)) := by
  rw [step_cons hq] at h
  rcases State.edge_cases { s with inputs := qs } q with
    ⟨hr', _⟩ | ⟨_, _, e⟩ | ⟨_, _, _, e⟩ | ⟨_, _, hx, hv, e⟩ | ⟨_, _, _, _, e⟩
  · simp [hr] at hr'
  · cases e.symm.trans h
  · cases e.symm.trans h
    left
    dsimp only
    split <;> split <;> exact ⟨rfl, rfl, rfl⟩
  · refine .inr ⟨hx, hv, { s with inputs := qs, sampled := q.req.args, offered := none }, rfl, rfl, rfl, ?_⟩
    rcases State.accept_cases { s with inputs := qs } q.req with ⟨_, ha⟩ | ⟨i, hd, ha⟩
    · cases (e.trans ha).symm.trans h
      exact .inl rfl
    · exact .inr ⟨i, (Laws.decode_eq_some.1 hd).1, exec_result ((e.trans ha).symm.trans h)⟩
  · cases e.symm.trans h
    exact .inl ⟨rfl, rfl, rfl⟩

/-- The word of `status_clr` (R85). -/
theorem opcodeOf_eq_statusClr {cmd : Byte} (h : opcodeOf cmd = some .statusClr) : cmd = 0x52#8 := by
  unfold opcodeOf at h
  split at h <;> simp_all

/-- Settles O13: the one command that clears a sticky bit has word 0x52. -/
theorem stickyBitsPersist : Obligations.StickyBitsPersist := by
  intro s t q qs hq h hr hclr
  suffices s.sticky.le t.sticky from this
  rcases step_registers hq h hr with ⟨_, _, hk⟩ | ⟨hx, hv, u, _, _, hk, rfl | ⟨i, hi, hres⟩⟩
  · exact hk ▸ s.sticky.le_refl
  · exact hk ▸ u.sticky.le_record _
  · refine hk ▸ hres.sticky_le ?_
    rintro rfl
    exact hclr ⟨hx, hv, opcodeOf_eq_statusClr hi⟩

/-- Settles O14: no command unseeds a register, and no other edge without reset touches one. -/
theorem onlyResetClearsSeeded : Obligations.OnlyResetClearsSeeded := by
  intro s t q qs hq h hr
  simp only [State.seeded, State.smSeeded]
  rcases step_registers hq h hr with ⟨hg, hm, _⟩ | ⟨_, _, u, hg, hm, _, rfl | ⟨i, _, hres⟩⟩
  · exact ⟨fun h => hg ▸ h, fun h => hm ▸ h⟩
  · exact ⟨fun h => hg.symm ▸ h, fun h => hm.symm ▸ h⟩
  · rw [← hg, ← hm]
    exact hres.keeps_seeded

end Sys2Proof.Machine

/-! ## The all-zero state (R32) -/

namespace Sys2Proof.Machine

/-- A 64-bit draw leaves one step of the words, or two (R160). -/
theorem draw64_snd (v : Variant) (p : Params) (w : Words v) :
    (draw64 v p w).2 = advance v w ∨ (draw64 v p w).2 = advance v (advance v w) := by
  unfold draw64
  split
  · exact .inl rfl
  · exact .inr rfl

/-- The register file holds the all-zero state. -/
def Generator.isZero (g : Generator) : Prop := g.words = some (zeroWords g.variant.W g.variant.N)

/-- Draws and steps make the all-zero state out of no other (R32(b)). -/
theorem NewWords.of_eq_zero {s : State} {i : Instr} {w' : Words s.gen.variant} (h : NewWords s i w')
    (hi : i ∈ [.step, .next, .nextU32, .nextU64])
    (hz : w' = zeroWords s.gen.variant.W s.gen.variant.N) : s.gen.isZero := by
  unfold Generator.isZero
  cases h with
  | seedBytes _ | seedU64 | seedSm _ | jump _ => simp at hi
  | step hw | next hw | nextU32 hw => rw [hw, advance_eq_zero hz]
  | nextU64 hw =>
    rename_i w
    rcases draw64_snd s.gen.variant s.params w with e | e
    · rw [hw, advance_eq_zero (e.symm.trans hz)]
    · rw [hw, advance_eq_zero (advance_eq_zero (e.symm.trans hz))]

/-- Draws, steps and jumps of the all-zero state stay there (R32). -/
theorem NewWords.eq_zero {s : State} {i : Instr} {w' : Words s.gen.variant} (h : NewWords s i w')
    (hi : i ∈ [.step, .next, .nextU32, .nextU64, .jump]) (hz : s.gen.isZero) :
    w' = zeroWords s.gen.variant.W s.gen.variant.N := by
  cases h with
  | seedBytes _ | seedU64 | seedSm _ => simp at hi
  | step hw | next hw | nextU32 hw =>
    cases hz.symm.trans hw
    exact advance_zeroWords _
  | nextU64 hw =>
    cases hz.symm.trans hw
    rcases draw64_snd s.gen.variant s.params (zeroWords _ _) with e | e <;> simp only [e, advance_zeroWords]
  | jump hw =>
    cases hz.symm.trans hw
    exact Laws.jumpState_zeroWords _ _

/-- A command leaves `S` as it was or writes new words there. -/
theorem Result.gen_cases {s t : State} {i : Instr} (h : Result s i t) :
    t.gen = s.gen ∨ ∃ w, NewWords s i w ∧ t.gen = ⟨s.gen.variant, some w⟩ := by
  cases h with
  | raised e => exact .inl rfl
  | responded hu n x =>
    cases hu with
    | keep | setSm _ _ | clearSticky _ => exact .inl rfl
    | setWords hw | setBoth hw _ _ => exact .inr ⟨_, hw, rfl⟩

theorem State.nonzero_iff {s : State} : s.nonzero = true ↔ s.seeded = true ∧ ¬s.gen.isZero := by
  unfold State.nonzero State.seeded Generator.isZero
  split
  · rename_i w h
    simp [h]
  · rename_i h
    simp [h]

/-- Settles O55: the update map and the jump fix the all-zero state, and the update map reaches it from no
other. -/
theorem zeroStateIsNeitherReachedNorLeft : Obligations.ZeroStateIsNeitherReachedNorLeft := by
  intro s t i
  refine ⟨fun hi h hnz => ?_, fun hi h hz => ?_⟩
  · obtain ⟨hs, hnz⟩ := State.nonzero_iff.1 hnz
    refine State.nonzero_iff.2 ⟨(exec_result h).keeps_seeded.1 hs, ?_⟩
    rcases (exec_result h).gen_cases with hg | ⟨w, hw, hg⟩ <;> rw [hg]
    · exact hnz
    · exact fun hz => hnz (hw.of_eq_zero hi (Option.some.inj hz))
  · rcases (exec_result h).gen_cases with hg | ⟨w, hw, hg⟩
    · exact hg
    · rw [hg, hw.eq_zero hi hz, ← hz]

/-- On a 64-bit variant no command writes the all-zero state unless it stood there (R32, R185(a)). -/
theorem NewWords.of_eq_zero_64 {s : State} {i : Instr} {w' : Words s.gen.variant} (h : NewWords s i w')
    (hv : s.gen.variant.W = 64) (hz : w' = zeroWords s.gen.variant.W s.gen.variant.N) : s.gen.isZero := by
  have draw := h.of_eq_zero (hz := hz)
  cases h with
  | seedBytes hb => exact absurd hz (decodeSeed_seedBytes_ne_zero hb)
  | seedU64 | seedSm _ => exact absurd hz (expandState_ne_zero hv _ _)
  | step _ | next _ | nextU32 _ | nextU64 _ => exact draw (by decide)
  | jump hw => rw [Generator.isZero, hw, Laws.jumpState_eq_zero hv hz]

/-- A command of a 64-bit variant makes no all-zero state. -/
theorem Result.not_isZero {s t : State} {i : Instr} (h : Result s i t) (hv : s.gen.variant.W = 64)
    (hs : ¬s.gen.isZero) : ¬t.gen.isZero := by
  rcases h.gen_cases with hg | ⟨w, hw, hg⟩ <;> rw [hg]
  · exact hs
  · exact fun hz => hs (hw.of_eq_zero_64 hv (Option.some.inj hz))

/-- Settles O56: reset leaves no value, and neither a command nor any other edge makes the all-zero state. -/
theorem noStepReachesZeroOn64BitVariants : Obligations.NoStepReachesZeroOn64BitVariants := by
  intro s t hv (hs : ¬s.gen.isZero) h
  suffices ¬t.gen.isZero from this
  rcases hq : s.inputs with _ | ⟨q, qs⟩
  · cases (step_nil hq).symm.trans h
    exact hs
  rcases hr : q.rst with _ | _
  · rcases step_registers hq h hr with ⟨hg, _, _⟩ | ⟨_, _, u, hg, _, _, rfl | ⟨i, _, hres⟩⟩
    · rwa [hg]
    · rwa [State.raise_gen, hg]
    · rw [← hg] at hv hs
      exact hres.not_isZero hv hs
  · rw [step_cons hq, State.edge, if_pos hr] at h
    cases h
    simp [Generator.isZero]

end Sys2Proof.Machine

/-! ## `STATUS` and the state after reset (R34, R41) -/

namespace Sys2Proof.Machine

/-! The fields of `STATUS` (R34). Each is found by walking down the fields from the lowest; `Nat.reduceAdd` is
off so that a width stays the sum of the widths of its parts, which is what the lemmas about `++` match. -/

theorem State.statusWord_flags (s : State) :
    s.statusWord.getLsbD 0 = s.seeded ∧ s.statusWord.getLsbD 1 = s.smSeeded ∧
      s.statusWord.getLsbD 2 = s.sticky.invalidSeed ∧ s.statusWord.getLsbD 3 = s.sticky.illegalCommand ∧
      s.statusWord.getLsbD 4 = s.sticky.unseeded := by
  unfold State.statusWord
  refine ⟨?_, ?_, ?_, ?_, ?_⟩ <;> rw [BitVec.getLsbD_append] <;>
    simp [BitVec.getElem_append, -Nat.reduceAdd]

theorem State.statusWord_reserved (s : State) :
    s.statusWord.extractLsb' 5 3 = 0#3 ∧ s.statusWord.extractLsb' 12 4 = 0#4 ∧
      s.statusWord.extractLsb' 25 7 = 0#7 := by
  unfold State.statusWord
  refine ⟨?_, ?_, ?_⟩ <;> rw [BitVec.extractLsb'_append_eq_of_le (by decide)] <;>
    simp [BitVec.extractLsb'_append_eq_ite, -Nat.reduceAdd]

theorem State.statusWord_fields (s : State) :
    s.statusWord.extractLsb' 8 4 = variantId s.gen.variant ∧
      s.statusWord.extractLsb' 16 4 = BitVec.ofNat 4 s.gen.variant.WB ∧
      s.statusWord.extractLsb' 20 4 = BitVec.ofNat 4 s.gen.variant.N := by
  unfold State.statusWord
  refine ⟨?_, ?_, ?_⟩ <;> rw [BitVec.extractLsb'_append_eq_of_le (by decide)] <;>
    simp [BitVec.extractLsb'_append_eq_ite, -Nat.reduceAdd]

theorem State.statusWord_jumpPresent (s : State) : s.statusWord.getLsbD 24 = s.jumpPresent := by
  unfold State.statusWord
  rw [BitVec.getLsbD_append]
  simp [BitVec.getElem_append, -Nat.reduceAdd]

/-- What is hardwired in `STATUS` is the configuration: the word size and the word count of every variant fit
their fields. -/
theorem State.statusWord_hardwired (s : State) :
    s.statusWord.extractLsb' 8 4 = variantId s.gen.variant ∧
      (s.statusWord.extractLsb' 16 4).toNat = s.gen.variant.WB ∧
      (s.statusWord.extractLsb' 20 4).toNat = s.gen.variant.N ∧ s.statusWord.getLsbD 24 = s.jumpPresent := by
  obtain ⟨hv, hWB, hN⟩ := s.statusWord_fields
  refine ⟨hv, ?_, ?_, s.statusWord_jumpPresent⟩
  · rw [hWB]
    cases s.gen.variant <;> rfl
  · rw [hN]
    cases s.gen.variant <;> rfl

/-- Settles O11: the flags, the reserved bits and the hardwired fields. -/
theorem statusFieldsOfEveryState : Obligations.StatusFieldsOfEveryState := by
  intro s
  obtain ⟨h0, h1, h2, h3, h4⟩ := s.statusWord_flags
  obtain ⟨r5, r12, r25⟩ := s.statusWord_reserved
  obtain ⟨hv, hWB, hN, hj⟩ := s.statusWord_hardwired
  exact ⟨h0, h1, h2, h3, h4, r5, hv, r12, hWB, hN, hj, r25⟩

/-- A legal command that reads a register raises `UNSEEDED` while neither register holds a value (R273). -/
theorem exec_unwritten {s : State} {i : Instr} (hg : s.gen.words = none) (hm : s.sm = none)
    (hwf : i.wf s.gen.variant s.params = true) (hr : readsWords i = true ∨ readsSm i = true) :
    exec i s = .next (s.raise .unseeded) := by
  cases i with
  | step | scramble | next | nextU32 | nextU64 | readState =>
    exact congrArg Host.Outcome.next (State.withWords_none hg _)
  | jump => exact (exec_jump_present hwf).trans (congrArg Host.Outcome.next (State.withWords_none hg _))
  | smNext | seedSm => exact congrArg Host.Outcome.next (State.withSm_none hm _)
  | smSeed | seedBytes | seedU64 | status | statusClr => simp [readsWords, readsSm] at hr

/-- With every flag 0 the low eight bits of `STATUS` are 0 (R34, R41). -/
theorem State.statusWord_low_of_clear {s : State} (hs : s.seeded = false) (hm : s.smSeeded = false)
    (hk : s.sticky = Sticky.clear) : s.statusWord.extractLsb' 0 8 = 0#8 := by
  obtain ⟨h0, h1, h2, h3, h4⟩ := s.statusWord_flags
  have h5 : ∀ i < 3, s.statusWord.getLsbD (5 + i) = false := fun i hi => by
    simpa [hi] using congrArg (BitVec.getLsbD · i) s.statusWord_reserved.1
  refine BitVec.eq_of_getLsbD_eq fun i hi => ?_
  simp only [BitVec.getLsbD_extractLsb', hi, decide_true, Bool.true_and, Nat.zero_add, BitVec.getLsbD_zero]
  rw [hs] at h0
  rw [hm] at h1
  rw [hk] at h2 h3 h4
  interval_cases i
  exacts [h0, h1, h2, h3, h4, h5 0 (by decide), h5 1 (by decide), h5 2 (by decide)]

/-- Settles O8: the registers by definition, the readers by `exec_unwritten`, and `STATUS` by its fields. -/
theorem resetStateIsUnwritten : Obligations.ResetStateIsUnwritten := by
  intro v p
  obtain ⟨hv, hWB, hN, hj⟩ := (State.resetOf v p).statusWord_hardwired
  exact ⟨rfl, rfl, rfl, rfl, rfl, rfl, rfl, fun i hwf hr => exec_unwritten rfl rfl hwf hr,
    State.statusWord_low_of_clear rfl rfl rfl, hv, hWB, hN, hj⟩

end Sys2Proof.Machine
end

section
/-! SUPPORT. The statements that rest on spec/20_memory.md: the byte order of a seed and of a state that is read
back (R61, R62), and instances side by side (R72). -/

/-! ## Byte order (R13, R61, R62) -/

namespace Sys2Proof.Machine

/-- Successive bytes of a value make up the bits they are cut from. -/
theorem fromLE_map_byteOf {w : Nat} (x : BitVec w) (start n : Nat) :
    fromLE ((List.range' start n).map (byteOf x)) = (x.extractLsb' (8 * start) (8 * n)).toNat := by
  induction n generalizing start with
  | zero => rw [BitVec.extractLsb'_toNat, Nat.mul_zero, Nat.pow_zero, Nat.mod_one]; rfl
  | succ n ih =>
    rw [List.range'_succ, List.map_cons, fromLE, ih, byteOf, BitVec.extractLsb'_toNat, BitVec.extractLsb'_toNat,
      BitVec.extractLsb'_toNat, Nat.mul_succ, Nat.mul_succ, Nat.shiftRight_add, Nat.shiftRight_eq_div_pow _ 8,
      Nat.add_comm (8 * n), Nat.pow_add, Nat.mod_mul]

theorem lowBytes_eq_map_range' {w : Nat} (n : Nat) (x : BitVec w) :
    lowBytes n x = (List.range' 0 n).map (byteOf x) := by rw [lowBytes, List.range_eq_range']

/-- A run of the low bytes of a value. -/
theorem lowBytes_drop_take {w n start k : Nat} (x : BitVec w) (h : start + k ≤ n) :
    ((lowBytes n x).drop start).take k = (List.range' start k).map (byteOf x) := by
  refine List.ext_getElem ?_ fun j _ _ => ?_
  · simp only [lowBytes, List.length_take, List.length_drop, List.length_map, List.length_range,
      List.length_range']
    omega
  · simp [lowBytes]

/-- The low bytes of a value make up its low bits. -/
theorem fromLE_lowBytes {w : Nat} (n : Nat) (x : BitVec w) :
    fromLE (lowBytes n x) = (x.setWidth (8 * n)).toNat := by
  rw [lowBytes_eq_map_range', fromLE_map_byteOf, BitVec.extractLsb'_toNat, BitVec.toNat_setWidth,
    Nat.mul_zero, Nat.shiftRight_zero]

/-- `fromLE` undoes `LE_w` (R13). -/
theorem fromLE_leBytes {w : Nat} (hw : 8 ∣ w) (x : BitVec w) : fromLE (leBytes x) = x.toNat := by
  rw [leBytes, fromLE_lowBytes, Nat.mul_div_cancel' hw, BitVec.setWidth_eq]

theorem fromLE_append (a b : List Byte) : fromLE (a ++ b) = fromLE a + 2 ^ (8 * a.length) * fromLE b := by
  induction a with
  | nil => simp [fromLE]
  | cons c a ih =>
    rw [List.cons_append, fromLE, fromLE, ih, List.length_cons, Nat.mul_succ, Nat.pow_add]
    ring

/-- The bytes of successive words make up the number whose digits are the words (R62). -/
theorem fromLE_flatMap_leBytes {w : Nat} (hw : 8 ∣ w) (l : List (BitVec w)) :
    fromLE (l.flatMap leBytes) = Laws.packWords l := by
  induction l with
  | nil => rfl
  | cons x l ih =>
    have length : 8 * (leBytes x).length = w := by simp [leBytes, lowBytes, Nat.mul_div_cancel' hw]
    rw [List.flatMap_cons, fromLE_append, fromLE_leBytes hw, length, ih, Nat.add_comm]
    rfl

/-- The words of successive bytes on a port are found there again, word `i` at bit `i·w` (R61, R62). -/
theorem extractLsb'_packBytes_flatMap {w : Nat} (hw : 8 ∣ w) {l : List (BitVec w)} (hl : l.length * w ≤ 512)
    {i : Nat} (hi : i < l.length) : (packBytes (l.flatMap leBytes)).extractLsb' (i * w) w = l[i] := by
  refine BitVec.eq_of_getLsbD_eq fun b hb => ?_
  have hlt : i * w + b < 512 := Nat.lt_of_lt_of_le (Laws.lane_index_lt hb hi) hl
  have hdiv : (i * w + b) / w = i := by
    rw [Nat.mul_comm, Nat.mul_add_div (by omega), Nat.div_eq_of_lt hb, Nat.add_zero]
  have hmod : (i * w + b) % w = b := by rw [Nat.mul_add_mod', Nat.mod_eq_of_lt hb]
  rw [packBytes, fromLE_flatMap_leBytes hw, BitVec.getLsbD_extractLsb', BitVec.getLsbD_ofNat,
    Laws.packWords_testBit (by omega), hdiv, hmod, List.getD_eq_getElem _ _ hi]
  simp [hb, hlt]

end Sys2Proof.Machine

/-! ## Seeding from bytes (R61, R181) -/

namespace Sys2Proof

theorem Variant.eight_mul_WB (v : Variant) : 8 * v.WB = v.W := by cases v <;> rfl

/-- The bytes of word `i` lie within the seed. -/
theorem Variant.word_bytes_le (v : Variant) {i : Nat} (hi : i < v.N) : i * v.WB + v.WB ≤ v.L := by
  rw [← Nat.succ_mul]
  exact Nat.mul_le_mul_right v.WB hi

theorem Variant.eight_mul_L (v : Variant) : 8 * v.L = v.SB := by cases v <;> rfl

theorem Variant.SB_le_512 (v : Variant) : v.SB ≤ 512 := by cases v <;> decide

end Sys2Proof

namespace Sys2Proof.Machine

/-- Word `i` of a decoded seed is the `W` bits of the port from bit `i·W` on (R61). -/
theorem decodeSeed_seedBytes (v : Variant) (a : Lanes) :
    decodeSeed v (seedBytes v a) = Vector.ofFn fun i => a.extractLsb' (i.val * v.W) v.W := by
  refine Vector.ext fun i hi => ?_
  rw [decodeSeed, Vector.getElem_ofFn, Vector.getElem_ofFn, seedBytes,
    lowBytes_drop_take a (v.word_bytes_le hi), fromLE_map_byteOf, Nat.mul_left_comm, v.eight_mul_WB,
    BitVec.ofNat_toNat, BitVec.setWidth_eq]

theorem fromLE_eq_zero_iff {l : List Byte} : fromLE l = 0 ↔ ∀ x ∈ l, x = 0#8 := by
  refine ⟨fromLE_eq_zero, fun h => ?_⟩
  induction l with
  | nil => rfl
  | cons b bs ih =>
    obtain ⟨hb, hbs⟩ := List.forall_mem_cons.1 h
    rw [fromLE, hb, ih hbs]
    rfl

/-- The seed bytes are all zero exactly when the low `8·L` bits of the port are. -/
theorem seedBytes_all_zero_iff {v : Variant} {a : Lanes} :
    (seedBytes v a).all (fun x => x == 0#8) = true ↔ a.setWidth (8 * v.L) = 0#(8 * v.L) := by
  rw [List.all_eq_true, ← BitVec.toNat_inj, ← fromLE_lowBytes, ← seedBytes, BitVec.toNat_zero,
    fromLE_eq_zero_iff]
  simp only [beq_iff_eq]

/-- `seed_bytes` rejects an all-zero seed (R181). -/
theorem exec_seedBytes_of_zero {s : State} (h : s.sampled.argseed.setWidth (8 * s.gen.variant.L) = 0) :
    exec .seedBytes s = .next (s.raise .invalidSeed) :=
  congrArg Host.Outcome.next (if_pos (seedBytes_all_zero_iff.2 h))

/-- `seed_bytes` writes the words of any other seed to `S` (R181). -/
theorem exec_seedBytes_of_ne_zero {s : State} (h : s.sampled.argseed.setWidth (8 * s.gen.variant.L) ≠ 0) :
    exec .seedBytes s = .next ((s.setWords (Vector.ofFn fun i =>
      s.sampled.argseed.extractLsb' (i.val * s.gen.variant.W) s.gen.variant.W)).respond 0 0#512) := by
  rw [← decodeSeed_seedBytes]
  exact congrArg Host.Outcome.next (if_neg (mt seedBytes_all_zero_iff.1 h))

/-- Settles O24: word 0x20 is legal on every instance, and the two cases of the seed are the laws above. -/
theorem seedBytesDecodesOrRejects : Obligations.SeedBytesDecodesOrRejects := by
  intro s
  exact ⟨Laws.decode_eq_some.2 ⟨Laws.opcode_seedBytes, rfl⟩, exec_seedBytes_of_zero, exec_seedBytes_of_ne_zero⟩

end Sys2Proof.Machine

/-! ## Reading a state back and seeding from it (R62, R68(c), R250) -/

namespace Sys2Proof.Machine

/-- Word `i` of a state that is read back is the `W` bits from bit `i·W` on (R62). -/
theorem extractLsb'_packBytes_stateBytes {v : Variant} (w : Words v) {i : Nat} (hi : i < v.N) :
    (packBytes (stateBytes v w)).extractLsb' (i * v.W) v.W = w[i] := by
  have hl : w.toList.length * v.W ≤ 512 := by rw [Vector.length_toList]; exact v.SB_le_512
  rw [stateBytes, extractLsb'_packBytes_flatMap ⟨v.WB, v.eight_mul_WB.symm⟩ hl
    (by rwa [Vector.length_toList]), Vector.getElem_toList]

/-- Decoding undoes encoding (R61, R62). -/
theorem decodeSeed_stateBytes (v : Variant) (w : Words v) :
    decodeSeed v (seedBytes v (packBytes (stateBytes v w))) = w := by
  rw [decodeSeed_seedBytes]
  exact Vector.ext fun i hi => by rw [Vector.getElem_ofFn, extractLsb'_packBytes_stateBytes w hi]

/-- A seed decodes to the all-zero state exactly when its bits are all zero (R180). -/
theorem decodeSeed_seedBytes_eq_zero_iff {v : Variant} {a : Lanes} :
    decodeSeed v (seedBytes v a) = zeroWords v.W v.N ↔ a.setWidth (8 * v.L) = 0#(8 * v.L) := by
  constructor
  · intro h
    by_contra hne
    exact decodeSeed_seedBytes_ne_zero (Bool.eq_false_iff.2 (mt seedBytes_all_zero_iff.1 hne)) h
  · intro h
    rw [decodeSeed_seedBytes]
    refine eq_zeroWords_iff.2 fun i hi => BitVec.eq_of_getLsbD_eq fun b hb => ?_
    have hlt : i * v.W + b < 8 * v.L := v.eight_mul_L ▸ Laws.lane_index_lt hb hi
    have bit := congrArg (BitVec.getLsbD · (i * v.W + b)) h
    simpa [hlt, hb] using bit

/-- `read_state` answers `OK` only on a written file, and then with its bytes (R250). -/
theorem exec_readState_ok {s t : State} {x : Response} (h : exec .readState s = .next t) (hx : t.rsp = some x)
    (hok : x.err = none) :
    ∃ w, s.gen.words = some w ∧ x.data = packBytes (stateBytes s.gen.variant w) := by
  cases h
  rcases s.withWords_cases fun w => s.respond s.gen.variant.L (packBytes (stateBytes s.gen.variant w)) with
    ⟨_, e⟩ | ⟨w, hw, e⟩ <;> rw [e] at hx <;> cases hx
  · cases hok
  · exact ⟨w, hw, rfl⟩

/-- A written file is nonzero exactly when its words are not the all-zero state. -/
theorem State.nonzero_of_words {s : State} {w : Words s.gen.variant} (h : s.gen.words = some w) :
    s.nonzero = true ↔ w ≠ zeroWords s.gen.variant.W s.gen.variant.N := by
  simp [State.nonzero_iff, State.seeded, Generator.isZero, h]

/-- A seed that encodes words which are not all zero makes them `S`, and the encoding of the all-zero state is
rejected (R68(c)). -/
theorem exec_seedBytes_stateBytes {u : State} {w : Words u.gen.variant}
    (h : u.sampled.argseed = packBytes (stateBytes u.gen.variant w)) :
    (w ≠ zeroWords u.gen.variant.W u.gen.variant.N →
      exec .seedBytes u = .next ((u.setWords w).respond 0 0#512)) ∧
    (w = zeroWords u.gen.variant.W u.gen.variant.N → exec .seedBytes u = .next (u.raise .invalidSeed)) := by
  have hzero : w = zeroWords u.gen.variant.W u.gen.variant.N ↔
      u.sampled.argseed.setWidth (8 * u.gen.variant.L) = 0#(8 * u.gen.variant.L) := by
    rw [← decodeSeed_seedBytes_eq_zero_iff, h, decodeSeed_stateBytes]
  refine ⟨fun hne => ?_, fun hz => exec_seedBytes_of_zero (hzero.1 hz)⟩
  rw [exec_seedBytes_of_ne_zero (mt hzero.2 hne), ← decodeSeed_seedBytes, h, decodeSeed_stateBytes]

/-- Settles O51: the data read is the encoding of `S`, and `seed_bytes` decodes it on the other instance. -/
theorem cloneRestoresANonzeroState : Obligations.CloneRestoresANonzeroState := by
  rintro ⟨⟨v, words⟩, _⟩ t ⟨⟨v', words'⟩, _⟩ x h hx hok hv hdata
  obtain ⟨w, hw, hbytes⟩ := exec_readState_ok h hx hok
  cases hv
  obtain ⟨hne, hz⟩ := exec_seedBytes_stateBytes (hdata.trans hbytes)
  refine ⟨fun hnz => ⟨_, hne ((State.nonzero_of_words hw).1 hnz), ?_, rfl⟩, fun hnz => hz ?_⟩
  · exact congrArg (Generator.mk v) hw.symm
  · by_contra hwz
    exact Bool.false_ne_true (hnz.symm.trans ((State.nonzero_of_words hw).2 hwz))

end Sys2Proof.Machine

/-! ## Instances side by side (R72) -/

namespace Sys2Proof.Machine

/-- What a transaction on instance `k` does to the system: instance `k` answers, and its state alone is
replaced. -/
theorem System.transact_eq_some {y z : System} {k : Nat} {r : Request} {x : Response}
    (h : y.transact k r = some (x, z)) :
    ∃ s t, y.blocks[k]? = some s ∧ s.transact r = some (x, t) ∧ z = ⟨y.blocks.set k t⟩ := by
  unfold System.transact at h
  split at h
  · rename_i s hs
    split at h
    · rename_i x' t ht
      cases h
      exact ⟨s, t, hs, ht, rfl⟩
    · cases h
  · cases h

/-- Settles O59: replacing one entry of a list leaves the others. -/
theorem instancesAreIndependent : Obligations.InstancesAreIndependent := by
  intro y z k j r x h hj
  obtain ⟨s, t, _, _, rfl⟩ := System.transact_eq_some h
  exact List.getElem?_set_ne hj.symm

end Sys2Proof.Machine
end

section
/-! SUPPORT. The statements that rest on spec/30_encoding.md: the command words and their decoder (R84 to R88),
the responses (R83), the handshake (R80, R82) and the words form of a seed line (R90). -/

/-! ## Command words (R84 to R88) -/

namespace Sys2Proof

/-- The word column of R85 and its `UNIT` and `FUNC` columns give the same words. -/
theorem opcodeOf_eq_some {cmd : Byte} {i : Instr} : opcodeOf cmd = some i ↔ encode i = cmd := by
  constructor
  · intro h
    unfold opcodeOf at h
    split at h <;> cases h <;> rfl
  · rintro rfl
    cases i <;> rfl

/-- Settles O1: decoding is the opcode map followed by the check on `jump`, and the opcode map undoes the
encoder. -/
theorem decodeAndEncodeAgree : Obligations.DecodeAndEncodeAgree := by
  intro v p cmd i
  rw [Laws.decode_eq_some, opcodeOf_eq_some, and_comm]

/-- A legal command is what its word decodes to. -/
theorem decode_encode {v : Variant} {p : Params} {i : Instr} (h : i.wf v p = true) :
    decode v p (encode i) = some i := (decodeAndEncodeAgree v p _ i).2 ⟨h, rfl⟩

/-- The words of R87: those of no command that is legal on the instance. -/
theorem decode_eq_none {v : Variant} {p : Params} {cmd : Byte} :
    decode v p cmd = none ↔ ∀ i : Instr, i.wf v p = true → encode i ≠ cmd := by
  simp only [Option.eq_none_iff_forall_ne_some, ne_eq, decodeAndEncodeAgree v p cmd, not_and]

/-- `jump` is the one command whose legality depends on the instance (R224). -/
theorem Instr.wf_of_ne_jump {i : Instr} (h : i ≠ .jump) (v : Variant) (p : Params) : i.wf v p = true := by
  cases i with
  | jump => exact absurd rfl h
  | _ => rfl

/-- Word 0x40 is `jump` exactly where the instance has one (R86). -/
theorem decode_jump_word (v : Variant) (p : Params) :
    decode v p 0x40#8 = if jumpPresent v p then some .jump else none := by
  split
  case isTrue h => exact decode_encode (i := .jump) h
  case isFalse h =>
    refine decode_eq_none.2 fun i hi he => h ?_
    cases opcodeOf_eq_some.2 he
    exact hi

/-- Which instances have a jump (R86, R224). -/
theorem jumpPresent_iff (v : Variant) (p : Params) : jumpPresent v p = true ↔
    (v ≠ .xoroshiro64Star ∧ v ≠ .xoroshiro64StarStar) ∨ p.xoroshiro64Jump = .oneStepEquiv := by
  cases v <;> simp [jumpPresent]

/-- The fourteen words of R85. -/
theorem encode_mem (i : Instr) : encode i ∈ [0x10#8, 0x11#8, 0x20#8, 0x21#8, 0x22#8, 0x30#8, 0x31#8, 0x32#8,
    0x33#8, 0x34#8, 0x40#8, 0x50#8, 0x51#8, 0x52#8] := by cases i <;> decide

/-- The commands that are legal on every instance (R85). -/
def alwaysLegal : List Instr :=
  [.smSeed, .smNext, .seedBytes, .seedU64, .seedSm, .step, .scramble, .next, .nextU32, .nextU64, .readState,
    .status, .statusClr]

/-- Their words decode to them on every instance. -/
theorem map_decode_encode_alwaysLegal (v : Variant) (p : Params) :
    (alwaysLegal.map encode).map (decode v p) = alwaysLegal.map some := by
  rw [List.map_map]
  refine List.map_congr_left fun i hi => decode_encode (Instr.wf_of_ne_jump ?_ v p)
  rintro rfl
  exact absurd hi (by decide)

/-- Settles O3: thirteen commands are legal everywhere and `jump` where it is present; no command has any other
word; and accepting a word that does not decode raises before anything is executed. -/
theorem decoderOfEveryInstance : Obligations.DecoderOfEveryInstance := by
  intro v p
  refine ⟨map_decode_encode_alwaysLegal v p, decode_jump_word v p, fun cmd hcmd => ?_, jumpPresent_iff v p,
    fun s r hr => ?_⟩
  · exact decode_eq_none.2 fun i _ hi => hcmd (hi ▸ encode_mem i)
  · rcases s.accept_cases r with ⟨_, h⟩ | ⟨i, hi, _⟩
    · exact h
    · cases hr.symm.trans hi

/-- Settles O2: each word is the one its command encodes to. -/
theorem oneWordOfEachUnitDecodes : Obligations.OneWordOfEachUnitDecodes := by
  intro v p hj
  exact ⟨decode_encode (i := .smNext) rfl, decode_encode (i := .seedBytes) rfl,
    decode_encode (i := .nextU64) rfl, decode_encode (i := .jump) hj, decode_encode (i := .statusClr) rfl⟩

end Sys2Proof

/-! ## The handshake (R80, R82) -/

namespace Sys2Proof.Machine

/-- A word that decodes is accepted as its command. -/
theorem State.accept_of_decode {s : State} {r : Request} {i : Instr}
    (h : decode s.gen.variant s.params r.cmd = some i) :
    s.accept r = exec i { s with sampled := r.args, offered := none } := by
  rcases s.accept_cases r with ⟨hn, _⟩ | ⟨j, hj, e⟩
  · cases hn.symm.trans h
  · cases hj.symm.trans h
    exact e

/-- An idle block accepts the command offered to it (R82(a)). -/
theorem State.edge_idle {s : State} {q : Slot} (hr : q.rst = false) (hb : s.breaksOffer q = false)
    (hv : q.cmdValid = true) (hx : s.rsp = none) : s.edge q = s.accept q.req := by
  simp [State.edge, hr, hb, hv, hx]

/-- A waiting response is taken or holds steady, and the edge changes no register (R82(b), (d)). -/
theorem State.edge_waiting {s : State} {q : Slot} {x : Response} (hr : q.rst = false)
    (hb : s.breaksOffer q = false) (hx : s.rsp = some x) :
    ∃ t, s.edge q = .next t ∧ t.inputs = s.inputs ∧ t.gen = s.gen ∧ t.params = s.params ∧ t.sm = s.sm ∧
      t.sticky = s.sticky ∧ t.sampled = s.sampled ∧ t.rsp = if q.rspReady then none else some x := by
  rcases s.edge_cases q with
    ⟨hr', _⟩ | ⟨_, hb', _⟩ | ⟨_, _, _, e⟩ | ⟨_, _, hx', _⟩ | ⟨_, _, hx', _⟩
  · cases hr.symm.trans hr'
  · cases hb.symm.trans hb'
  · refine ⟨_, e, ?_⟩
    rcases q.cmdValid with _ | _ <;> rcases q.rspReady with _ | _ <;> simp [hx]
  · cases hx.symm.trans hx'
  · cases hx.symm.trans hx'

/-- The host takes a waiting response where it is ready for it (R82(b)). -/
theorem State.output_waiting {s : State} {q : Slot} {qs : List Slot} {x : Response} (hq : s.inputs = q :: qs)
    (hr : q.rst = false) (hx : s.rsp = some x) : s.output = if q.rspReady then some x else none := by
  simp [State.output_cons hq, State.rspValid, hr, hx]

/-- Settles O4: an idle block accepts the word, and the word decodes. -/
theorem stepRunsDecodedCommand : Obligations.StepRunsDecodedCommand := by
  intro s q qs i hq hr hv hx hb hd
  calc step s = State.edge { s with inputs := qs } q := step_cons hq
    _ = State.accept { s with inputs := qs } q.req := State.edge_idle hr hb hv hx
    _ = exec i { s with inputs := qs, sampled := q.req.args, offered := none } := State.accept_of_decode hd

/-- Settles O6: the edge takes the response or lets it stand, and its output is what it takes. -/
theorem waitingResponseBlocksCommands : Obligations.WaitingResponseBlocksCommands := by
  intro s q qs x hq hr hx hb
  obtain ⟨t, ht, fields⟩ := State.edge_waiting (s := { s with inputs := qs }) hr hb hx
  refine ⟨by simp [State.cmdReady, hx], by simp [State.rspValid, hr, hx], t, (step_cons hq).trans ht, ?_⟩
  simpa [fields] using State.output_waiting hq hr hx

end Sys2Proof.Machine

/-! ## Responses (R83) -/

namespace Sys2Proof.Machine

theorem Response.wf_mk {e : Option Err} {len : BitVec 7} {data : Lanes} : Response.wf ⟨e, len, data⟩ = true ↔
    len.toNat ≤ 64 ∧ data.toNat < 2 ^ (8 * len.toNat) ∧ (e = none ∨ len = 0#7 ∧ data = 0#512) := by
  simp [Response.wf, and_assoc]

/-- A result of `n` bytes makes a well-formed response if it fits them. -/
theorem State.inv_respond (s : State) {n : Nat} {x : Lanes} (hn : n ≤ 64) (hx : x.toNat < 2 ^ (8 * n)) :
    (s.respond n x).inv = true := by
  have hlen : (BitVec.ofNat 7 n).toNat = n := by rw [BitVec.toNat_ofNat]; omega
  rw [State.inv, State.respond_rsp, Option.all_some, Response.wf_mk, hlen]
  exact ⟨hn, hx, .inl rfl⟩

/-- A value of `w` bits fits the bytes that have room for it. -/
theorem State.inv_respond_setWidth (s : State) {n w : Nat} {x : BitVec w} (hn : n ≤ 64) (hw : w ≤ 8 * n) :
    (s.respond n (x.setWidth 512)).inv = true := by
  refine s.inv_respond hn (Nat.lt_of_le_of_lt ?_ (Nat.lt_of_lt_of_le x.isLt (Nat.pow_le_pow_right (by decide) hw)))
  rw [BitVec.toNat_setWidth]
  exact Nat.mod_le _ _

/-- The empty result of a command that returns nothing. -/
theorem State.inv_respond_empty (s : State) : (s.respond 0 0#512).inv = true :=
  s.inv_respond (Nat.zero_le _) (by rw [BitVec.toNat_zero]; exact Nat.two_pow_pos _)

/-- An error carries no result. -/
theorem State.inv_raise (s : State) (e : Err) : (s.raise e).inv = true := by
  rw [State.inv, State.raise_rsp, Option.all_some, Response.error, Response.wf_mk, BitVec.toNat_zero,
    BitVec.toNat_zero]
  exact ⟨Nat.zero_le _, Nat.two_pow_pos _, .inr ⟨rfl, rfl⟩⟩

theorem State.inv_withWords {s : State} {f : Words s.gen.variant → State} (hf : ∀ w, (f w).inv = true) :
    (s.withWords f).inv = true := by
  rcases s.withWords_cases f with ⟨_, e⟩ | ⟨w, _, e⟩ <;> rw [e]
  · exact s.inv_raise _
  · exact hf w

theorem State.inv_withSm {s : State} {f : Word64 → State} (hf : ∀ c, (f c).inv = true) :
    (s.withSm f).inv = true := by
  rcases s.withSm_cases f with ⟨_, e⟩ | ⟨c, _, e⟩ <;> rw [e]
  · exact s.inv_raise _
  · exact hf c

/-- A state has `L` bytes (R62). -/
theorem length_stateBytes {v : Variant} (w : Words v) : (stateBytes v w).length = v.L := by
  simp [stateBytes, leBytes, lowBytes]

/-- The bytes of a state fit the `L` bytes of its result (R62, R250). -/
theorem packBytes_stateBytes_lt {v : Variant} (w : Words v) :
    (packBytes (stateBytes v w)).toNat < 2 ^ (8 * v.L) := by
  rw [← length_stateBytes w, packBytes, BitVec.toNat_ofNat]
  exact Nat.lt_of_le_of_lt (Nat.mod_le _ _) (fromLE_lt _)

/-- Every command ends with a well-formed response: its result fits the length R85 gives. -/
theorem exec_inv {i : Instr} {s t : State} (h : exec i s = .next t) : t.inv = true := by
  have hWB : s.gen.variant.WB ≤ 64 := by cases s.gen.variant <;> decide
  have hW : s.gen.variant.W ≤ 8 * s.gen.variant.WB := s.gen.variant.eight_mul_WB.ge
  cases i with
  | smSeed | seedU64 | statusClr => cases h; exact State.inv_respond_empty _
  | smNext => cases h; exact State.inv_withSm fun _ => State.inv_respond_setWidth _ (by decide) (by decide)
  | seedBytes =>
    simp only [exec, execSeedBytes, Host.Outcome.next.injEq] at h
    subst h
    split
    · exact State.inv_raise _ _
    · exact State.inv_respond_empty _
  | seedSm => cases h; exact State.inv_withSm fun _ => State.inv_respond_empty _
  | step => cases h; exact State.inv_withWords fun _ => State.inv_respond_empty _
  | scramble | next => cases h; exact State.inv_withWords fun _ => State.inv_respond_setWidth _ hWB hW
  | nextU32 | nextU64 =>
    cases h; exact State.inv_withWords fun _ => State.inv_respond_setWidth _ (by decide) (by decide)
  | jump =>
    rcases hj : s.jumpPresent with _ | _
    · cases (exec_jump_absent hj).symm.trans h
      exact State.inv_raise _ _
    · cases (exec_jump_present hj).symm.trans h
      exact State.inv_withWords fun _ => State.inv_respond_empty _
  | readState =>
    have hL : s.gen.variant.L ≤ 64 := by cases s.gen.variant <;> decide
    cases h; exact State.inv_withWords fun w => State.inv_respond _ hL (packBytes_stateBytes_lt w)
  | status => cases h; exact State.inv_respond_setWidth _ (by decide) (by decide)

/-- Accepting a command leaves a well-formed response. -/
theorem State.accept_inv {s t : State} {r : Request} (h : s.accept r = .next t) : t.inv = true := by
  rcases s.accept_cases r with ⟨_, e⟩ | ⟨i, _, e⟩
  · cases e.symm.trans h
    exact State.inv_raise _ _
  · exact exec_inv (e.symm.trans h)

/-- An edge offers a new response only where it accepts a command. -/
theorem State.edge_inv {s t : State} {q : Slot} (hs : s.inv = true) (h : s.edge q = .next t) :
    t.inv = true := by
  rcases s.edge_cases q with
    ⟨_, e⟩ | ⟨_, _, e⟩ | ⟨hr, hb, ⟨x, hx⟩, _⟩ | ⟨_, _, _, _, e⟩ | ⟨_, _, _, _, e⟩
  · cases e.symm.trans h
    rfl
  · cases e.symm.trans h
  · obtain ⟨u, hu, _, _, _, _, _, _, hrsp⟩ := State.edge_waiting hr hb hx
    cases hu.symm.trans h
    rw [State.inv, hrsp]
    split
    · rfl
    · rwa [← hx]
  · exact State.accept_inv (e.symm.trans h)
  · cases e.symm.trans h
    exact hs

/-- The output of a step is the response on offer. -/
theorem State.rsp_of_output {s : State} {x : Response} (h : s.output = some x) : s.rsp = some x := by
  rcases hq : s.inputs with _ | ⟨q, qs⟩
  · cases (State.output_nil hq).symm.trans h
  · rw [State.output_cons hq] at h
    split at h
    · exact h
    · cases h

/-- With no response on offer there is none to take. -/
theorem State.output_idle {s : State} (hx : s.rsp = none) : s.output = none :=
  Option.eq_none_iff_forall_ne_some.2 fun _ h => nomatch hx.symm.trans (State.rsp_of_output h)

/-- Settles O53: a step is an edge, or changes nothing, and its output was on offer before it. -/
theorem stepKeepsResponsesWellFormed : Obligations.StepKeepsResponsesWellFormed := by
  intro s t hs h
  refine ⟨?_, fun x hx => ?_⟩
  · rcases hq : s.inputs with _ | ⟨q, qs⟩
    · cases (step_nil hq).symm.trans h
      exact hs
    · exact State.edge_inv (s := { s with inputs := qs }) hs ((step_cons hq).symm.trans h)
  · rwa [State.inv, State.rsp_of_output hx, Option.all_some] at hs

/-- Settles O54: no response is on offer after reset. -/
theorem resetHasWellFormedResponses : Obligations.ResetHasWellFormedResponses := by
  intro v p
  rfl

end Sys2Proof.Machine

/-! ## Unused argument ports (R82(f)) -/

namespace Sys2Proof.Machine

theorem State.withWords_sampled_congr (s : State) {a b : Args} {f g : Words s.gen.variant → State}
    (h : ∀ w, f w = g w) :
    State.withWords { s with sampled := a } f = State.withWords { s with sampled := b } g := by
  cases funext h
  rcases hw : s.gen.words with _ | w
  · exact (State.withWords_none (s := { s with sampled := a }) hw f).trans
      (State.withWords_none (s := { s with sampled := b }) hw f).symm
  · exact (State.withWords_some (s := { s with sampled := a }) hw f).trans
      (State.withWords_some (s := { s with sampled := b }) hw f).symm

theorem State.withSm_sampled_congr (s : State) {a b : Args} {f g : Word64 → State} (h : ∀ c, f c = g c) :
    State.withSm { s with sampled := a } f = State.withSm { s with sampled := b } g := by
  cases funext h
  rcases hc : s.sm with _ | c <;> rfl

/-- Sampled ports that agree where a command reads them make no difference to it, since it gives them up. -/
theorem exec_sampled_congr (i : Instr) (s : State) {a b : Args}
    (harg64 : usesArg64 i = true → a.arg64 = b.arg64)
    (hseed : usesArgseed i = true → seedBytes s.gen.variant a.argseed = seedBytes s.gen.variant b.argseed) :
    exec i { s with sampled := a } = exec i { s with sampled := b } := by
  cases i with
  | smSeed => exact congrArg (fun x => Host.Outcome.next ((s.setSm x).respond 0 0#512)) (harg64 rfl)
  | seedU64 =>
    exact congrArg (fun x =>
      Host.Outcome.next ((s.setWords (expandState s.gen.variant s.params x).1).respond 0 0#512)) (harg64 rfl)
  | seedBytes =>
    exact congrArg (fun bs : List Byte => Host.Outcome.next (if bs.all (fun x => x == 0#8) then s.raise .invalidSeed
      else (s.setWords (decodeSeed s.gen.variant bs)).respond 0 0#512)) (hseed rfl)
  | smNext | seedSm => exact congrArg Host.Outcome.next (s.withSm_sampled_congr fun _ => rfl)
  | step | scramble | next | nextU32 | nextU64 | readState =>
    exact congrArg Host.Outcome.next (s.withWords_sampled_congr fun _ => rfl)
  | jump => exact congrArg Host.Outcome.next (if_congr Iff.rfl (s.withWords_sampled_congr fun _ => rfl) rfl)
  | status | statusClr => rfl

/-- Two offers that are the same to an instance are accepted alike. -/
theorem State.accept_congr_of_sameOffer {s : State} {a b : Request} (h : sameOffer s.gen.variant a b = true) :
    s.accept a = s.accept b := by
  simp only [sameOffer, Bool.and_eq_true, Bool.or_eq_true, Bool.not_eq_true', beq_iff_eq] at h
  obtain ⟨⟨hcmd, harg64⟩, hseed⟩ := h
  rcases s.accept_cases a with ⟨hd, e⟩ | ⟨i, hd, e⟩ <;>
    rcases s.accept_cases b with ⟨hd', e'⟩ | ⟨j, hd', e'⟩ <;> rw [← hcmd, hd] at hd'
  · exact e.trans e'.symm
  · cases hd'
  · cases hd'
  · cases hd'
    rw [(Laws.decode_eq_some.1 hd).1, Option.any_some] at harg64 hseed
    rw [e, e']
    exact exec_sampled_congr i { s with offered := none } (fun hu => harg64.resolve_left (by simp [hu]))
      (fun hu => hseed.resolve_left (by simp [hu]))

theorem State.sameBlock_refl (s : State) : s.sameBlock s = true :=
  State.sameBlock_iff.2 ⟨rfl, rfl, rfl, rfl, rfl⟩

theorem State.sameBlock_symm {s t : State} (h : s.sameBlock t = true) : t.sameBlock s = true := by
  obtain ⟨hg, hp, hm, hk, hx⟩ := State.sameBlock_iff.1 h
  exact State.sameBlock_iff.2 ⟨hg.symm, hp.symm, hm.symm, hk.symm, hx.symm⟩

theorem State.sameBlock_trans {s t u : State} (h : s.sameBlock t = true) (h' : t.sameBlock u = true) :
    s.sameBlock u = true := by
  obtain ⟨hg, hp, hm, hk, hx⟩ := State.sameBlock_iff.1 h
  obtain ⟨hg', hp', hm', hk', hx'⟩ := State.sameBlock_iff.1 h'
  exact State.sameBlock_iff.2
    ⟨hg.trans hg', hp.trans hp', hm.trans hm', hk.trans hk', hx.trans hx'⟩

/-- Settles O57: both requests are accepted with the same outcome. -/
theorem unusedArgumentPortsHaveNoEffect : Obligations.UnusedArgumentPortsHaveNoEffect := by
  intro s t u a b h ht hu
  cases ht.symm.trans ((State.accept_congr_of_sameOffer h).trans hu)
  exact t.sameBlock_refl

end Sys2Proof.Machine

/-! ## The words form of a seed line (R90) -/

namespace Sys2Proof.Machine

/-- The words of a seed line stand on the port as `read_state` would give them (R62, R90). -/
theorem assemble_seedBytes_words (v : Variant) (w : Words v) (inst : Option (List Char)) :
    assemble v ⟨inst, .seedBytes, .words (w.toList.map BitVec.toNat)⟩ =
      some ⟨encode .seedBytes, { Args.zero with argseed := packBytes (stateBytes v w) }⟩ := by
  have hfits : (w.toList.map BitVec.toNat).all (fun x => x < 2 ^ v.W) = true := by
    simp [BitVec.isLt]
  have hwords : (w.toList.map BitVec.toNat).map (BitVec.ofNat v.W) = w.toList := by
    simp [Function.comp_def]
  rw [assemble, assembleSeed, if_pos ⟨by simp, hfits⟩, hwords]
  rfl

/-- Settles O25: the assembled seed encodes the words, and `seed_bytes` decodes it. -/
theorem assembledSeedWordsBecomeTheState : Obligations.AssembledSeedWordsBecomeTheState := by
  intro s w inst hw
  have accepts := State.accept_of_decode (s := s)
    (r := ⟨encode .seedBytes, { Args.zero with argseed := packBytes (stateBytes s.gen.variant w) }⟩)
    (decode_encode (i := .seedBytes) rfl)
  have seeds := (exec_seedBytes_stateBytes (u := { s with
    sampled := { Args.zero with argseed := packBytes (stateBytes s.gen.variant w) }, offered := none })
    (w := w) rfl).1 hw
  exact ⟨_, _, assemble_seedBytes_words s.gen.variant w inst, accepts.trans seeds, rfl, rfl⟩

end Sys2Proof.Machine
/-! ## A run over clock edges (R80, R307) -/

namespace Sys2Proof.Machine

/-- Blocks that agree answer a command alike and agree afterwards. -/
theorem State.transact_sameBlock {s t : State} (h : s.sameBlock t = true) (r : Request) :
    ∃ x s' t', s.transact r = some (x, s') ∧ t.transact r = some (x, t') ∧ s'.sameBlock t' = true := by
  obtain ⟨hg, hp, hm, hk, _⟩ := State.sameBlock_iff.1 h
  obtain ⟨s', t', hs, ht, h'⟩ := State.accept_sameBlock r hg hp hm hk
  obtain ⟨hg', hp', hm', hk', hx'⟩ := State.sameBlock_iff.1 h'
  obtain ⟨u, hu, ⟨x, hx⟩, _⟩ := s.accept_responds r
  cases hs.symm.trans hu
  exact ⟨x, s'.take, t'.take, State.transact_of_accept hs hx, State.transact_of_accept ht (hx'.symm.trans hx),
    State.sameBlock_iff.2 ⟨hg', hp', hm', hk', rfl⟩⟩

/-- Blocks that agree answer a sequence of commands alike and agree afterwards. -/
theorem State.runCommands_sameBlock {s t : State} (h : s.sameBlock t = true) (rs : List Request) :
    ∃ xs s' t', s.runCommands rs = some (xs, s') ∧ t.runCommands rs = some (xs, t') ∧
      s'.sameBlock t' = true := by
  induction rs generalizing s t with
  | nil => exact ⟨[], s, t, rfl, rfl, h⟩
  | cons r rs ih =>
    obtain ⟨x, s', t', hs, ht, h'⟩ := State.transact_sameBlock h r
    obtain ⟨xs, s'', t'', hs', ht', h''⟩ := ih h'
    exact ⟨x :: xs, s'', t'', State.runCommands_cons hs hs', State.runCommands_cons ht ht', h''⟩

/-- Two sequences of commands one after the other. -/
theorem State.runCommands_append {s t u : State} {rs rs' : List Request} {xs xs' : List Response}
    (h : s.runCommands rs = some (xs, t)) (h' : t.runCommands rs' = some (xs', u)) :
    s.runCommands (rs ++ rs') = some (xs ++ xs', u) := by
  induction rs generalizing s xs with
  | nil =>
    cases h
    exact h'
  | cons r rs ih =>
    obtain ⟨x, s', hs, _⟩ := s.transact_answers r
    obtain ⟨ys, v, hv, _⟩ := s'.runCommands_answers rs
    cases (State.runCommands_cons hs hv).symm.trans h
    exact State.runCommands_cons hs (ih hv)

/-- No command is accepted beside a waiting response (R82(b)). -/
theorem State.edgeAccepts_waiting {s : State} {x : Response} (q : Slot) (hx : s.rsp = some x) :
    s.edgeAccepts q = none := by simp [State.edgeAccepts, State.cmdReady, hx]

/-- An idle block accepts the command that is offered to it, if one is (R82(a)). -/
theorem State.edgeAccepts_idle {s : State} {q : Slot} (hr : q.rst = false) (hx : s.rsp = none) :
    s.edgeAccepts q = if q.cmdValid then some q.req else none := by
  simp [State.edgeAccepts, State.cmdReady, hr, hx]

/-- An edge without reset is the commands it accepts, one step each: beside the response that waits before it,
they give the responses it takes or leaves waiting. -/
theorem step_runs_accepted {s t : State} {q : Slot} {qs : List Slot} (hq : s.inputs = q :: qs)
    (hr : q.rst = false) (h : step s = .next t) :
    ∃ xs u, s.take.runCommands (s.edgeAccepts q).toList = some (xs, u) ∧ u.sameBlock t.take = true ∧
      s.output.toList ++ t.rsp.toList = s.rsp.toList ++ xs := by
  rw [step_cons hq] at h
  rcases State.edge_cases { s with inputs := qs } q with
    ⟨hr', _⟩ | ⟨_, _, e⟩ | ⟨_, hb, ⟨x, hx⟩, _⟩ | ⟨_, _, hx, hv, e⟩ | ⟨_, _, hx, hv, e⟩
  · cases hr.symm.trans hr'
  · cases e.symm.trans h
  · obtain ⟨u, hu, _, hg, hp, hm, hk, _, hrsp⟩ := State.edge_waiting hr hb hx
    cases hu.symm.trans h
    replace hx : s.rsp = some x := hx
    refine ⟨[], s.take, by rw [State.edgeAccepts_waiting q hx]; rfl,
      State.sameBlock_iff.2 ⟨hg.symm, hp.symm, hm.symm, hk.symm, rfl⟩, ?_⟩
    rw [State.output_waiting hq hr hx, hrsp, hx]
    cases q.rspReady <;> rfl
  · replace hx : s.rsp = none := hx
    obtain ⟨u, hu, ⟨x, hux⟩, _⟩ := State.accept_responds { s with inputs := qs } q.req
    cases hu.symm.trans (e.symm.trans h)
    obtain ⟨_, s', _, hs', ht', hst⟩ := State.transact_sameBlock (s := s.take) (t := { s with inputs := qs })
      (State.sameBlock_iff.2 ⟨rfl, rfl, rfl, rfl, hx.symm⟩) q.req
    cases ht'.symm.trans (State.transact_of_accept hu hux)
    refine ⟨[x], s', ?_, hst, ?_⟩
    · rw [State.edgeAccepts_idle hr hx, if_pos hv]
      exact State.runCommands_cons hs' (State.runCommands_nil _)
    · rw [State.output_idle hx, hux, hx]
      rfl
  · replace hx : s.rsp = none := hx
    cases e.symm.trans h
    refine ⟨[], s.take, ?_, State.sameBlock_iff.2 ⟨rfl, rfl, rfl, rfl, rfl⟩, ?_⟩
    · rw [State.edgeAccepts_idle hr hx, if_neg (by simp [hv])]
      rfl
    · rw [State.output_idle hx]
      exact (List.append_nil _).symm

/-- Everything a run of at least one step can be: its inputs are at an end, a reset cuts it, or it is its first
step and the run after that. -/
theorem runSteps_succ {n : Nat} {s : State} {z : Run} (h : runSteps (n + 1) s = some z) :
    z = ⟨[], [], s.runEnd, s⟩ ∨ (∃ t, z = ⟨[], [], .cut, t⟩) ∨
    ∃ q qs t y, s.inputs = q :: qs ∧ q.rst = false ∧ step s = .next t ∧ runSteps n t = some y ∧
      z = { y with
        commands := (s.edgeAccepts q).toList ++ y.commands
        responses := s.output.toList ++ y.responses } := by
  unfold runSteps at h
  split at h
  next => exact .inl (Option.some.inj h).symm
  next q qs hq =>
    split at h
    next t ht =>
      split at h
      next => exact .inr (.inl ⟨t, (Option.some.inj h).symm⟩)
      next hr =>
        split at h
        next y hy => exact .inr (.inr ⟨q, qs, t, y, hq, by simpa using hr, ht, hy, (Option.some.inj h).symm⟩)
        next => cases h
    next => cases h
    next => cases h

/-- Beside the response that waits in `s`, the responses of the run `z` from `s` are those of its commands issued
one step each, and it ends in the block they leave. -/
def Run.IsRunOfCommands (z : Run) (s : State) : Prop :=
  ∃ xs t, s.take.runCommands z.commands = some (xs, t) ∧ z.responses = s.rsp.toList ++ xs ∧
    z.final.sameBlock t = true

theorem State.take_eq_self {s : State} (h : s.rsp = none) : s.take = s := by
  cases s
  cases h
  rfl

/-- A run of no step that has ended leaves no response waiting. -/
theorem Run.isRunOfCommands_of_no_step {s : State} (h : s.runEnd = .answered) :
    Run.IsRunOfCommands ⟨[], [], s.runEnd, s⟩ s := by
  have hx : s.rsp = none := by
    rcases hx : s.rsp with _ | x
    · rfl
    · simp [State.runEnd, hx] at h
  refine ⟨[], s, ?_, ?_, s.sameBlock_refl⟩
  · rw [State.take_eq_self hx]
    rfl
  · rw [hx]
    rfl

/-- A run that has ended is the run of its commands, by induction on its steps. -/
theorem runSteps_isRunOfCommands {n : Nat} {s : State} {z : Run} (h : runSteps n s = some z)
    (hz : z.ending = .answered) : z.IsRunOfCommands s := by
  induction n generalizing s z with
  | zero =>
    cases h
    exact Run.isRunOfCommands_of_no_step hz
  | succ n ih =>
    rcases runSteps_succ h with rfl | ⟨t, rfl⟩ | ⟨q, qs, t, y, hq, hr, ht, hy, rfl⟩
    · exact Run.isRunOfCommands_of_no_step hz
    · cases hz
    · obtain ⟨xs, u, hu, hut, hx⟩ := step_runs_accepted hq hr ht
      obtain ⟨ys, t', ht', hys, hfinal⟩ := ih hy hz
      obtain ⟨_, u', _, hu', ht'', hut'⟩ := State.runCommands_sameBlock hut y.commands
      cases ht''.symm.trans ht'
      refine ⟨xs ++ ys, u', State.runCommands_append hu hu', ?_,
        State.sameBlock_trans hfinal (State.sameBlock_symm hut')⟩
      calc s.output.toList ++ y.responses = s.output.toList ++ t.rsp.toList ++ ys := by rw [hys, List.append_assoc]
        _ = s.rsp.toList ++ (xs ++ ys) := by rw [hx, List.append_assoc]

/-- Settles O60: no response waits before the run. -/
theorem runOverEdgesIsTheRunOfItsCommands : Obligations.RunOverEdgesIsTheRunOfItsCommands := by
  intro s z hx h hz
  obtain ⟨xs, t, ht, hxs, hfinal⟩ := runSteps_isRunOfCommands h hz
  rw [hx, Option.toList_none, List.nil_append] at hxs
  rw [State.take_eq_self hx, ← hxs] at ht
  exact ⟨t, ht, hfinal⟩

end Sys2Proof.Machine

end

section
/-! SUPPORT. The statements that rest on spec/40_seed_expander.md: the mix as a bijection (R101, R104), the
draws of an expansion (R102, R103) and the commands `sm_seed` and `sm_next` (R105, R106). -/

/-! ## The mix (R101, R104) -/

namespace Sys2Proof.Machine

/-- An xor with a shift to the right can be undone: it is linear, and sends only zero to zero. -/
theorem xor_ushiftRight_injective {w k : Nat} (hk : 0 < k) :
    Function.Injective fun x : BitVec w => x ^^^ (x >>> k) := by
  intro x y (h : x ^^^ (x >>> k) = y ^^^ (y >>> k))
  refine BitVec.xor_eq_zero_iff.1 (eq_zero_of_xor_ushiftRight_eq_zero hk ?_)
  calc x ^^^ y ^^^ (x ^^^ y) >>> k = x ^^^ (x >>> k) ^^^ (y ^^^ (y >>> k)) := by
        rw [BitVec.ushiftRight_xor_distrib]; ac_rfl
    _ = 0#w := by rw [h, BitVec.xor_self]

/-- The mix loses no bit: each of its shifts can be undone, and its multipliers have inverses (R104(b)). -/
theorem mix_injective : Function.Injective mix := by
  have shift1 := xor_ushiftRight_injective (w := 64) (k := sh1) (by decide)
  have shift2 := xor_ushiftRight_injective (w := 64) (k := sh2) (by decide)
  have shift3 := xor_ushiftRight_injective (w := 64) (k := sh3) (by decide)
  have mul1 := (IsUnit.of_mul_eq_one (a := mix1) 0x96de1b173f119089#64 (by decide)).mul_left_injective
  have mul2 := (IsUnit.of_mul_eq_one (a := mix2) 0x319642b2d24d8ec3#64 (by decide)).mul_left_injective
  exact shift3.comp (mul2.comp (shift2.comp (mul1.comp shift1)))

/-- Settles O22: an injective map of a finite type is bijective, and zero goes through each round. -/
theorem mixIsABijectionFixingZero : Obligations.MixIsABijectionFixingZero := by
  have : Finite Word64 := Finite.of_injective BitVec.toFin BitVec.toFin_injective
  exact ⟨Finite.injective_iff_bijective.1 mix_injective, by decide⟩

/-- Settles O23: the counter after an expansion and each of its outputs, both by induction on the draws. -/
theorem expansionDrawsAndCounter : Obligations.ExpansionDrawsAndCounter := by
  intro c k
  exact ⟨expand_snd c k, fun _ => expand_fst_getElem c⟩

end Sys2Proof.Machine

/-! ## The counter commands (R105, R106) -/

namespace Sys2Proof.Machine

/-- `sm_seed` loads the counter from `arg64` (R105). -/
theorem exec_smSeed (s : State) : exec .smSeed s = .next ((s.setSm s.sampled.arg64).respond 0 0#512) := rfl

/-- `sm_next` raises `UNSEEDED` on an unwritten counter (R106). -/
theorem exec_smNext_of_unwritten {s : State} (h : s.sm = none) :
    exec .smNext s = .next (s.raise .unseeded) := congrArg Host.Outcome.next (State.withSm_none h _)

/-- `sm_next` makes one draw on a written counter: it keeps the new counter and answers its mix (R102, R106). -/
theorem exec_smNext_of_written {s : State} {c : Word64} (h : s.sm = some c) : exec .smNext s =
    .next ((s.setSm (c + gamma)).respond 8 ((mix (c + gamma)).setWidth 512)) :=
  congrArg Host.Outcome.next (State.withSm_some h _)

/-- Settles O20: word 0x10 is legal on every instance, and the command is its equation. -/
theorem smSeedLoadsCounter : Obligations.SmSeedLoadsCounter := by
  intro s
  exact ⟨decode_encode (i := .smSeed) rfl, exec_smSeed s⟩

/-- Settles O21: word 0x11 is legal on every instance, and the two cases of the counter are the laws above. -/
theorem smNextDrawsFromCounter : Obligations.SmNextDrawsFromCounter := by
  intro s
  exact ⟨decode_encode (i := .smNext) rfl, exec_smNext_of_unwritten, fun _ => exec_smNext_of_written⟩

end Sys2Proof.Machine

end

section
/-! SUPPORT. The statements that rest on spec/41_lfsr_state_machine.md: the update map in closed form (R121 to
R125) and as a linear bijection (R126), its characteristic polynomial and its period (R127), and the command
`step` (R128). -/

/-! ## The update map (R121 to R126) -/

namespace Sys2Proof.Machine

/-- The rotation of R12 is the library's. -/
theorem rotl_eq_rotateLeft {w k : Nat} (hk : k < w) (x : BitVec w) : rotl x k = x.rotateLeft k :=
  (BitVec.rotateLeft_def.trans (by rw [Nat.mod_eq_of_lt hk, rotl])).symm

theorem step2_closed_form {w k m c : Nat} (hk : k < w) (hc : c < w) (a b : BitVec w) :
    step2 (k, m, c) #v[a, b] =
      #v[a.rotateLeft k ^^^ (a ^^^ b) ^^^ ((a ^^^ b) <<< m), (a ^^^ b).rotateLeft c] := by
  rw [← rotl_eq_rotateLeft hk, ← rotl_eq_rotateLeft hc, BitVec.xor_comm a b]
  rfl

theorem step4_closed_form {w k m : Nat} (hm : m < w) (a b c d : BitVec w) :
    step4 (k, m) #v[a, b, c, d] =
      #v[a ^^^ b ^^^ d, a ^^^ b ^^^ c, a ^^^ c ^^^ (b <<< k), (b ^^^ d).rotateLeft m] := by
  rw [← rotl_eq_rotateLeft hm]
  refine Vector.ext fun i hi => ?_
  interval_cases i <;> simp [step4] <;> ac_rfl

theorem step8_closed_form {w k m : Nat} (hm : m < w) (a b c d e f g h : BitVec w) :
    step8 (k, m) #v[a, b, c, d, e, f, g, h] =
      #v[a ^^^ g, a ^^^ b ^^^ c, a ^^^ c, d ^^^ e, b ^^^ e ^^^ f, b ^^^ f,
        d ^^^ g ^^^ h ^^^ (b <<< k), (d ^^^ h).rotateLeft m] := by
  rw [← rotl_eq_rotateLeft hm]
  refine Vector.ext fun i hi => ?_
  interval_cases i <;> simp [step8] <;> ac_rfl

/-- Settles O30: each pair of variants is its family's closed form at the amounts of R121. -/
theorem updateMapClosedForms : Obligations.UpdateMapClosedForms := by
  refine ⟨fun a b => ?_, fun a b c d => ?_, fun a b c d e f g h => ?_, fun a b => ?_, fun a b c d => ?_⟩
  · have form := step2_closed_form (k := 24) (m := 16) (c := 37) (by decide) (by decide) a b
    exact ⟨form, form⟩
  · have form := step4_closed_form (k := 17) (m := 45) (by decide) a b c d
    exact ⟨form, form⟩
  · have form := step8_closed_form (k := 11) (m := 21) (by decide) a b c d e f g h
    exact ⟨form, form⟩
  · have form := step2_closed_form (k := 26) (m := 9) (c := 13) (by decide) (by decide) a b
    exact ⟨form, form⟩
  · have form := step4_closed_form (k := 9) (m := 11) (by decide) a b c d
    exact ⟨form, form⟩

/-- The word lists of one shape are finitely many. -/
theorem finite_words (w n : Nat) : Finite (Vector (BitVec w) n) := by
  have : Finite (BitVec w) := Finite.of_injective BitVec.toFin BitVec.toFin_injective
  refine Finite.of_injective (fun (x : Vector (BitVec w) n) (i : Fin n) => x[i]) fun x y h => ?_
  exact Vector.ext fun i hi => congrFun h ⟨i, hi⟩

/-- The update map loses no state: it is linear, and sends only zero to zero (R126). -/
theorem advance_injective (v : Variant) : Function.Injective (advance v) := by
  intro x y h
  refine Laws.xorWords_eq_zeroWords_iff.1 (advance_eq_zero ?_)
  rw [advance_xorWords, h, xorWords_self]

/-- Settles O31: an injective map of a finite type is bijective. -/
theorem updateMapIsALinearBijection : Obligations.UpdateMapIsALinearBijection := by
  intro v
  have := finite_words v.W v.N
  exact ⟨advance_xorWords v, advance_zeroWords v, Finite.injective_iff_bijective.1 (advance_injective v)⟩

end Sys2Proof.Machine

/-! ## The characteristic polynomial (R127) -/

namespace Sys2Proof.Laws
open Machine

/-- At every unit word list, the polynomial `p` of degree `n·w` at the wide step `T'` is zero. -/
def vanishesOnUnits (w n : Nat) (T' : Vector (BitVec (w * (n * w))) n → Vector (BitVec (w * (n * w))) n)
    (p : Nat) : Bool :=
  evalAt xorLists (zeroWords _ n) T' (n * w + 1) p (unitLanes w n) == zeroWords _ n

/-- Where `T'` is `T` on every lane, a polynomial that vanishes at the unit word lists does so everywhere. -/
theorem evalAt_eq_zero_of_vanishesOnUnits {w n : Nat} {T : Vector (BitVec w) n → Vector (BitVec w) n}
    {T' : Vector (BitVec (w * (n * w))) n → Vector (BitVec (w * (n * w))) n}
    (hT : ∀ x y, T (xorWords x y) = xorWords (T x) (T y))
    (hlane : ∀ l < n * w, ∀ x, laneWords l (T' x) = T (laneWords l x)) {p : Nat}
    (h : vanishesOnUnits w n T' p = true) (x : Vector (BitVec w) n) :
    evalAt xorWords (zeroWords w n) T (n * w + 1) p x = zeroWords w n := by
  have S := xorSpace_words w n
  refine eq_zero_of_units S (evalAt_add S hT _ _) (fun i hi b hb => ?_) x
  have hl : i * w + b < n * w := lane_index_lt hb hi
  rw [vanishesOnUnits, ← xorWords_eq_xorLists] at h
  have unit := congrArg (laneWords (i * w + b)) (eq_of_beq h)
  rwa [evalAt_hom (laneWords_zeroWords _ _ _ _) laneWords_xorWords (hlane _ hl), laneWords_unitLanes hi hb,
    laneWords_zeroWords] at unit

theorem characteristicPoly_xoroshiro128_vanishes :
    vanishesOnUnits 64 2 (step2 (24 * (2 * 64), 16 * (2 * 64), 37 * (2 * 64)))
      (characteristicPoly .xoroshiro128Plus) = true := by decide +kernel

theorem characteristicPoly_xoshiro256_vanishes :
    vanishesOnUnits 64 4 (step4 (17 * (4 * 64), 45 * (4 * 64))) (characteristicPoly .xoshiro256Plus) = true := by
  decide +kernel

theorem characteristicPoly_xoshiro512_vanishes :
    vanishesOnUnits 64 8 (step8 (11 * (8 * 64), 21 * (8 * 64))) (characteristicPoly .xoshiro512Plus) = true := by
  decide +kernel

theorem characteristicPoly_xoroshiro64_vanishes :
    vanishesOnUnits 32 2 (step2 (26 * (2 * 32), 9 * (2 * 32), 13 * (2 * 32)))
      (characteristicPoly .xoroshiro64Star) = true := by decide +kernel

theorem characteristicPoly_xoshiro128_vanishes :
    vanishesOnUnits 32 4 (step4 (9 * (4 * 32), 11 * (4 * 32))) (characteristicPoly .xoshiro128Plus) = true := by
  decide +kernel

/-- The polynomial of R127 vanishes at the update map. -/
theorem evalAt_characteristicPoly (v : Variant) (x : Words v) :
    evalAt xorWords (zeroWords v.W v.N) (advance v) (v.SB + 1) (characteristicPoly v) x = zeroWords v.W v.N := by
  cases v with
  | xoroshiro128Plus | xoroshiro128StarStar =>
    exact evalAt_eq_zero_of_vanishesOnUnits (step2_xorWords _) (fun _ hl => laneWords_step2 hl 24 16 37)
      characteristicPoly_xoroshiro128_vanishes x
  | xoshiro256Plus | xoshiro256StarStar =>
    exact evalAt_eq_zero_of_vanishesOnUnits (step4_xorWords _) (fun _ hl => laneWords_step4 hl 17 45)
      characteristicPoly_xoshiro256_vanishes x
  | xoshiro512Plus | xoshiro512StarStar =>
    exact evalAt_eq_zero_of_vanishesOnUnits (step8_xorWords _) (fun _ hl => laneWords_step8 hl 11 21)
      characteristicPoly_xoshiro512_vanishes x
  | xoroshiro64Star | xoroshiro64StarStar =>
    exact evalAt_eq_zero_of_vanishesOnUnits (step2_xorWords _) (fun _ hl => laneWords_step2 hl 26 9 13)
      characteristicPoly_xoroshiro64_vanishes x
  | xoshiro128Plus | xoshiro128StarStar =>
    exact evalAt_eq_zero_of_vanishesOnUnits (step4_xorWords _) (fun _ hl => laneWords_step4 hl 9 11)
      characteristicPoly_xoshiro128_vanishes x

/-- Settles O32: the sum of powers of the statement is the polynomial at the update map. -/
theorem updateMapSatisfiesItsPolynomial : Obligations.UpdateMapSatisfiesItsPolynomial := by
  intro v w
  refine (foldl_filter_eq (xorSpace_words v.W v.N) (advance_xorWords v) _ _ _ _).trans ?_
  rw [zeroWords_xorWords, evalAt_characteristicPoly]

end Sys2Proof.Laws

/-! ## The period (R127) -/

namespace Sys2Proof.Laws
open Machine

/-! The powers of `x` again, with the branch of `timesX` as a product and in the operations on numbers that the
kernel evaluates at once: the certificates below are checked with these. -/

/-- `timesX` without a branch: the bit that leaves the low `d` bits selects the polynomial `p`. -/
def timesXFast (p d r : Nat) : Nat := Nat.xor (Nat.mul 2 r) (Nat.mul p (Nat.shiftRight (Nat.mul 2 r) d))

/-- `timesMod` over `timesXFast`. -/
def timesModFast (p d r : Nat) : (n : Nat) → (q : Nat) → Nat
  | 0, _ => 0
  | n + 1, q => Nat.xor (Nat.mul r (Nat.mod q 2)) (timesXFast p d (timesModFast p d r n (Nat.div q 2)))

/-- `xPowMod` over `timesModFast`. -/
def xPowModFast (p d : Nat) : (n : Nat) → (m : Nat) → Nat
  | 0, _ => 1
  | n + 1, m =>
    let h := xPowModFast p d n (m / 2)
    let h2 := timesModFast p d h d h
    if m.testBit 0 then timesXFast p d h2 else h2

theorem timesXFast_eq {p d r : Nat} (hr : r < 2 ^ d) : timesXFast p d r = timesX p d r := by
  have hlt : 2 * r / 2 ^ d < 2 := Nat.div_lt_of_lt_mul (by omega)
  have top : (2 * r) >>> d = ((2 * r).testBit d).toNat := by
    rw [Nat.toNat_testBit, Nat.shiftRight_eq_div_pow, Nat.mod_eq_of_lt hlt]
  change 2 * r ^^^ p * (2 * r) >>> d = _
  rw [top, timesX]
  cases (2 * r).testBit d <;> simp

section

variable {p d : Nat} (hp : p < 2 ^ (d + 1)) (hd : p.testBit d = true)

include hp hd

theorem timesModFast_eq {r : Nat} (hr : r < 2 ^ d) (n q : Nat) :
    timesModFast p d r n q = timesMod p d r n q := by
  induction n generalizing q with
  | zero => rfl
  | succ n ih =>
    change r * (q % 2) ^^^ timesXFast p d (timesModFast p d r n (q / 2)) = _
    have low : q % 2 = (q.testBit 0).toNat := by rw [Nat.toNat_testBit, Nat.pow_zero, Nat.div_one]
    rw [ih, timesXFast_eq (timesMod_lt hp hd hr _ _), low, timesMod]
    cases q.testBit 0 <;> simp

theorem xPowModFast_eq (h1 : 1 ≤ d) (n m : Nat) : xPowModFast p d n m = xPowMod p d n m := by
  induction n generalizing m with
  | zero => rfl
  | succ n ih =>
    have hlt := xPowMod_lt hp hd h1 n (m / 2)
    simp only [xPowModFast, xPowMod, ih, timesModFast_eq hp hd hlt, timesXFast_eq (timesMod_lt hp hd hlt _ _)]

end

/-- `c` holds a prime `q` and an inverse of `x^((2^d - 1)/q) + 1` modulo the polynomial `p` of degree `d`. -/
def invertsPower (p d : Nat) (c : Nat × Nat) : Bool :=
  decide (c.2 < 2 ^ d) && timesModFast p d c.2 d (xPowModFast p d d ((2 ^ d - 1) / c.1) ^^^ 1) == 1

/-- The polynomial of every variant is of degree `SB`. -/
theorem characteristicPoly_degree (v : Variant) :
    characteristicPoly v < 2 ^ (v.SB + 1) ∧ (characteristicPoly v).testBit v.SB = true := by
  cases v <;> decide +kernel

/-- Where `x^(2^SB - 1) = 1` modulo the characteristic polynomial, and each prime of `2^SB - 1` comes with its
inverse, every nonzero state returns after `2^SB - 1` steps and no sooner. -/
theorem advance_full_period (v : Variant) {qs : List Nat} (hprime : ∀ q ∈ qs, q.Prime) (hprod : qs.prod = 2 ^ v.SB - 1)
    {cs : List (Nat × Nat)} (hcs : cs.map Prod.fst = qs)
    (hone : xPowModFast (characteristicPoly v) v.SB v.SB (2 ^ v.SB - 1) = 1)
    (hinv : cs.all (invertsPower (characteristicPoly v) v.SB) = true) {w : Words v}
    (hw : w ≠ zeroWords v.W v.N) :
    (advance v)^[2 ^ v.SB - 1] w = w ∧ ∀ k, 0 < k → k < 2 ^ v.SB - 1 → (advance v)^[k] w ≠ w := by
  obtain ⟨hp, hd⟩ := characteristicPoly_degree v
  have h1 : 1 ≤ v.SB := by cases v <;> decide
  rw [xPowModFast_eq hp hd h1] at hone
  have inverse : ∀ q, q.Prime → q ∣ 2 ^ v.SB - 1 → ∃ u < 2 ^ v.SB, timesMod (characteristicPoly v) v.SB u v.SB
      (xPowMod (characteristicPoly v) v.SB v.SB ((2 ^ v.SB - 1) / q) ^^^ 1) = 1 := by
    intro q hq hdvd
    have hmem : q ∈ cs.map Prod.fst := hcs ▸
      mem_list_primes_of_dvd_prod hq.prime (fun q h => (hprime q h).prime) (hprod ▸ hdvd)
    obtain ⟨c, hc, rfl⟩ := List.mem_map.1 hmem
    have key := List.all_eq_true.1 hinv c hc
    rw [invertsPower, Bool.and_eq_true, decide_eq_true_eq, beq_iff_eq] at key
    obtain ⟨hlt, key⟩ := key
    rw [timesModFast_eq hp hd hlt, xPowModFast_eq hp hd h1] at key
    exact ⟨c.2, hlt, key⟩
  have period : Function.minimalPeriod (advance v) w = 2 ^ v.SB - 1 :=
    minimalPeriod_eq (xorSpace_words v.W v.N) (advance_xorWords v) hp hd (evalAt_characteristicPoly v)
      h1 (Nat.sub_lt (Nat.two_pow_pos _) Nat.one_pos) hone inverse hw
  rw [← period]
  exact ⟨Function.iterate_minimalPeriod, fun k hk hlt =>
    Function.not_isPeriodicPt_of_pos_of_lt_minimalPeriod hk.ne' hlt⟩

/-- The largest prime of `2^128 - 1`: 3 is a primitive root modulo it. -/
theorem prime_67280421310721 : Nat.Prime 67280421310721 := by
  refine lucas_primality _ 3 (by norm_num; reduce_mod_char) fun q hq hdvd => ?_
  have hmem : q ∈ Nat.primeFactorsList 67280421310720 := (Nat.mem_primeFactorsList (by decide)).2 ⟨hq, hdvd⟩
  simp only [Nat.primeFactorsList_ofNat, List.mem_cons, List.not_mem_nil, or_false, or_self_left] at hmem
  rcases hmem with rfl | rfl | rfl | rfl | rfl <;> (norm_num; reduce_mod_char; decide)

/-- The primes of `2^64 - 1`. -/
def primes64 : List Nat := [3, 5, 17, 257, 641, 65537, 6700417]

/-- The primes of `2^128 - 1`. -/
def primes128 : List Nat := primes64 ++ [274177, 67280421310721]

theorem prod_primes64 : primes64.prod = 2 ^ 64 - 1 := by decide

theorem prod_primes128 : primes128.prod = 2 ^ 128 - 1 := by decide

theorem prime_of_mem_primes64 : ∀ q ∈ primes64, q.Prime := by
  intro q hq
  simp only [primes64, List.mem_cons, List.not_mem_nil, or_false] at hq
  rcases hq with rfl | rfl | rfl | rfl | rfl | rfl | rfl <;> norm_num

theorem prime_of_mem_primes128 : ∀ q ∈ primes128, q.Prime := by
  intro q hq
  simp only [primes128, List.mem_append, List.mem_cons, List.not_mem_nil, or_false] at hq
  rcases hq with hq | rfl | rfl
  · exact prime_of_mem_primes64 q hq
  · norm_num
  · exact prime_67280421310721

/-! The inverse for each prime of `2^64 - 1` and of `2^128 - 1`, found outside and checked here. -/

/-- For the polynomial of variants 6 and 7. -/
def xoroshiro64Inverses : List (Nat × Nat) :=
  [(3, 0xfd64f34d18b1aa77), (5, 0xe899d42abd368284), (17, 0xc5de2f621b25f09a), (257, 0xee3c5a7953da7f82),
    (641, 0xf269980a0f2f9957), (65537, 0x3b7c5f0bd3e992f6), (6700417, 0x4cc5c87d9e634973)]

/-- For the polynomial of variants 0 and 1. -/
def xoroshiro128Inverses : List (Nat × Nat) :=
  [(3, 0x28ad2cf3e09d85f0dc40f461d2c2c7d8), (5, 0xbe5308ec69514dc2ca8939e8bb7cc7f3),
    (17, 0xb033aadb8e620d5380760c3edaa7db8), (257, 0x30e5aaf1d16d836bb08347f6b98df9d6),
    (641, 0x6ec2b2abc5012855a81493c7e42b2476), (65537, 0x3c13da96bdf060b8b178dd43e7c56a9e),
    (6700417, 0xfbf5d1e791cb791fc6077daa37669ed5), (274177, 0x37430ca27c542004fe3ea4c3ea9f5ebc),
    (67280421310721, 0x55db575fb05489582681f5f2a0a72912)]

/-- For the polynomial of variants 8 and 9. -/
def xoshiro128Inverses : List (Nat × Nat) :=
  [(3, 0x188ce7ea029c4bf6dded83847a711395), (5, 0xd0b81dc3de8363ddddfd32c4ef886bf4),
    (17, 0x7d5de34ef14456cdccabf22143842b52), (257, 0xf98c9dfcc04c64b2b8cfb96508e78fcd),
    (641, 0x40b0c263cbfa8427d62f24e6089d3f8b), (65537, 0x7c352e1c640bd6131b1eecf072501922),
    (6700417, 0xcfaf9079377931cb1b4625d2ff58d222), (274177, 0x464896dcfdd900fb8dfdabe1bc3542b9),
    (67280421310721, 0x39046ea60511db4048a3c9d486cbc62a)]

theorem xoroshiro64_xPow_order : xPowModFast (characteristicPoly .xoroshiro64Star) 64 64 (2 ^ 64 - 1) = 1 := by
  decide +kernel

theorem xoroshiro64Inverses_invert :
    xoroshiro64Inverses.all (invertsPower (characteristicPoly .xoroshiro64Star) 64) = true := by decide +kernel

theorem xoroshiro128_xPow_order : xPowModFast (characteristicPoly .xoroshiro128Plus) 128 128 (2 ^ 128 - 1) = 1 := by
  decide +kernel

theorem xoroshiro128Inverses_invert :
    xoroshiro128Inverses.all (invertsPower (characteristicPoly .xoroshiro128Plus) 128) = true := by decide +kernel

theorem xoshiro128_xPow_order : xPowModFast (characteristicPoly .xoshiro128Plus) 128 128 (2 ^ 128 - 1) = 1 := by
  decide +kernel

theorem xoshiro128Inverses_invert :
    xoshiro128Inverses.all (invertsPower (characteristicPoly .xoshiro128Plus) 128) = true := by decide +kernel

/-- Settles O33: both variants have one update map, and a certificate for it stands above. -/
theorem fullPeriodOf64BitStates : Obligations.FullPeriodOf64BitStates := by
  intro v w hv hw
  rcases hv with rfl | rfl
  · exact advance_full_period .xoroshiro64Star prime_of_mem_primes64 prod_primes64
      rfl xoroshiro64_xPow_order xoroshiro64Inverses_invert hw
  · exact advance_full_period .xoroshiro64StarStar prime_of_mem_primes64 prod_primes64
      rfl xoroshiro64_xPow_order xoroshiro64Inverses_invert hw

/-- Settles O34: each pair of variants has one update map, and a certificate for each stands above. -/
theorem fullPeriodOf128BitStates : Obligations.FullPeriodOf128BitStates := by
  intro v w hv hw
  simp only [List.mem_cons, List.not_mem_nil, or_false] at hv
  rcases hv with rfl | rfl | rfl | rfl
  · exact advance_full_period .xoroshiro128Plus prime_of_mem_primes128 prod_primes128
      rfl xoroshiro128_xPow_order xoroshiro128Inverses_invert hw
  · exact advance_full_period .xoroshiro128StarStar prime_of_mem_primes128 prod_primes128
      rfl xoroshiro128_xPow_order xoroshiro128Inverses_invert hw
  · exact advance_full_period .xoshiro128Plus prime_of_mem_primes128 prod_primes128
      rfl xoshiro128_xPow_order xoshiro128Inverses_invert hw
  · exact advance_full_period .xoshiro128StarStar prime_of_mem_primes128 prod_primes128
      rfl xoshiro128_xPow_order xoshiro128Inverses_invert hw

end Sys2Proof.Laws

/-! ## The command `step` (R128) -/

namespace Sys2Proof.Machine

/-- `step` raises `UNSEEDED` on an unwritten file (R128, R273). -/
theorem exec_step_of_unwritten {s : State} (h : s.gen.words = none) :
    exec .step s = .next (s.raise .unseeded) := congrArg Host.Outcome.next (State.withWords_none h _)

/-- `step` applies the update map to a written file and answers with no result (R128). -/
theorem exec_step_of_written {s : State} {w : Words s.gen.variant} (h : s.gen.words = some w) :
    exec .step s = .next ((s.setWords (advance s.gen.variant w)).respond 0 0#512) :=
  congrArg Host.Outcome.next (State.withWords_some h _)

/-- Settles O29: word 0x30 is legal on every instance, and the two cases of the file are the laws above. -/
theorem stepCommandAppliesUpdate : Obligations.StepCommandAppliesUpdate := by
  intro s
  exact ⟨decode_encode (i := .step) rfl, exec_step_of_unwritten, fun _ => exec_step_of_written⟩

end Sys2Proof.Machine

end

section
/-! SUPPORT. The statements that rest on spec/42_xorshift_mixer.md: the scramblers in closed form (R151 to R155),
the values of the draws (R159, R160), and the commands `scramble`, `next`, `next_u32` and `next_u64` (R157 to
R160). -/

/-! ## The scramblers (R151 to R155) -/

namespace Sys2Proof.Machine

/-- R152 with the library's rotation; 7 is a rotation amount at either width. -/
theorem starStar579_closed_form {w : Nat} (hw : 7 < w) (x : BitVec w) :
    starStar579 x = (x * 5).rotateLeft 7 * 9 := by
  rw [starStar579, rotl_eq_rotateLeft hw]
  rfl

/-- R154 with the library's rotation. -/
theorem starStar64_closed_form (x : BitVec 32) :
    starStar64 x = (x * 0x9E3779BB#32).rotateLeft 5 * 5 := by
  rw [starStar64, rotl_eq_rotateLeft (by decide)]
  rfl

/-- Settles O35: a "+" and the "*" scrambler are their table entry as it stands, and a "**" scrambler is its
closed form on the word the table designates. -/
theorem scramblerOfEveryVariant : Obligations.ScramblerOfEveryVariant := by
  have h64 : 7 < 64 := by decide
  have h32 : 7 < 32 := by decide
  exact ⟨fun a _ => ⟨rfl, starStar579_closed_form h64 a⟩,
    fun _ b _ _ => ⟨rfl, starStar579_closed_form h64 b⟩,
    fun _ b _ _ _ _ _ _ => ⟨rfl, starStar579_closed_form h64 b⟩,
    fun a _ => ⟨rfl, starStar64_closed_form a⟩,
    fun _ b _ _ => ⟨rfl, starStar579_closed_form h32 b⟩⟩

end Sys2Proof.Machine

/-! ## The values of the draws (R159, R160) -/

namespace Sys2Proof.Machine

theorem toNat_lo32 (x : Word64) : (lo32 x).toNat = x.toNat % 2 ^ 32 := by
  rw [lo32, BitVec.extractLsb'_toNat, Nat.shiftRight_zero]

theorem toNat_hi32 (x : Word64) : (hi32 x).toNat = x.toNat / 2 ^ 32 := by
  rw [hi32, BitVec.extractLsb'_toNat, Nat.shiftRight_eq_div_pow]
  exact Nat.mod_eq_of_lt (by omega)

/-- The 32 bits that `next_u32` takes of a draw (R159): a 32-bit draw is its own low half. -/
theorem toNat_halfOfDraw (v : Variant) (p : Params) (x : BitVec v.W) :
    (halfOfDraw v p x).toNat =
      if v = .xoroshiro128Plus ∨ v = .xoshiro256Plus ∨ v = .xoshiro512Plus ∨ (v.W = 64 ∧ p.u32HalfSS = .high)
      then x.toNat / 2 ^ 32 else x.toNat % 2 ^ 32 := by
  cases v with
  | xoroshiro128Plus | xoshiro256Plus | xoshiro512Plus => simp [halfOfDraw, scramblerOf, toNat_hi32]
  | xoroshiro128StarStar | xoshiro256StarStar | xoshiro512StarStar =>
    cases hp : p.u32HalfSS with
    | low => simp [halfOfDraw, scramblerOf, hp, toNat_lo32]
    | high => simp [halfOfDraw, scramblerOf, hp, toNat_hi32]
  | xoroshiro64Star | xoroshiro64StarStar | xoshiro128Plus | xoshiro128StarStar =>
    exact BitVec.toNat_setWidth 32 x

/-- Concatenation as arithmetic on numbers. -/
theorem toNat_append_eq_add {m n : Nat} (x : BitVec m) (y : BitVec n) :
    (x ++ y).toNat = x.toNat * 2 ^ n + y.toNat := by
  rw [BitVec.toNat_append, ← Nat.shiftLeft_add_eq_or_of_lt y.isLt, Nat.shiftLeft_eq]

/-- The pair of two 32-bit draws, in the order of `U64_PAIR_ORDER` (R160). -/
theorem toNat_pairDraws (p : Params) (x1 x2 : BitVec 32) :
    (pairDraws p x1 x2).toNat =
      if p.u64PairOrder = .lowFirst then x2.toNat * 2 ^ 32 + x1.toNat else x1.toNat * 2 ^ 32 + x2.toNat := by
  cases hp : p.u64PairOrder with
  | lowFirst => simpa [pairDraws, hp] using toNat_append_eq_add x2 x1
  | highFirst => simpa [pairDraws, hp] using toNat_append_eq_add x1 x2

/-- A 64-bit draw of a 64-bit variant is one native draw (R160). -/
theorem draw64_of_W64 {v : Variant} (hv : v.W = 64) (p : Params) (w : Words v) :
    draw64 v p w = ((scramble v w).setWidth 64, advance v w) := if_pos hv

/-- A 64-bit draw of a 32-bit variant pairs two native draws, the second from the words the first leaves
(R160). -/
theorem draw64_of_W32 {v : Variant} (hv : v.W = 32) (p : Params) (w : Words v) :
    draw64 v p w = (pairDraws p ((scramble v w).setWidth 32) ((scramble v (advance v w)).setWidth 32),
      advance v (advance v w)) := if_neg (by omega)

end Sys2Proof.Machine

/-! ## The commands of the mixer (R157 to R160) -/

namespace Sys2Proof.Machine

/-- A legal command that reads `S` raises `UNSEEDED` on an unwritten file (R273). -/
theorem exec_of_words_unwritten {s : State} {i : Instr} (hwf : i.wf s.gen.variant s.params = true)
    (hr : readsWords i = true) (h : s.gen.words = none) : exec i s = .next (s.raise .unseeded) := by
  cases i with
  | step | scramble | next | nextU32 | nextU64 | readState =>
    exact congrArg Host.Outcome.next (State.withWords_none h _)
  | jump => exact (exec_jump_present hwf).trans (congrArg Host.Outcome.next (State.withWords_none h _))
  | smSeed | smNext | seedBytes | seedU64 | seedSm | status | statusClr => cases hr

section
variable {s : State} {w : Words s.gen.variant} (h : s.gen.words = some w)
include h

/-- `scramble` answers the scrambler output of a written file and keeps it (R157). -/
theorem exec_scramble_of_written : exec .scramble s = .next
    (s.respond s.gen.variant.WB ((scramble s.gen.variant w).setWidth 512)) :=
  congrArg Host.Outcome.next (State.withWords_some h _)

/-- `next` answers the scramble of the words before the step and advances them (R156, R158). -/
theorem exec_next_of_written : exec .next s = .next
    ((s.setWords (advance s.gen.variant w)).respond s.gen.variant.WB
      ((scramble s.gen.variant w).setWidth 512)) :=
  congrArg Host.Outcome.next (State.withWords_some h _)

/-- `next_u32` answers its half of one native draw (R159). -/
theorem exec_nextU32_of_written : exec .nextU32 s = .next
    ((s.setWords (advance s.gen.variant w)).respond 4
      ((halfOfDraw s.gen.variant s.params (scramble s.gen.variant w)).setWidth 512)) :=
  congrArg Host.Outcome.next (State.withWords_some h _)

/-- `next_u64` answers one 64-bit draw (R160). -/
theorem exec_nextU64_of_written : exec .nextU64 s = .next
    ((s.setWords (draw64 s.gen.variant s.params w).2).respond 8
      ((draw64 s.gen.variant s.params w).1.setWidth 512)) :=
  congrArg Host.Outcome.next (State.withWords_some h _)

/-- `next_u64` on a 64-bit variant answers one native draw (R160). -/
theorem exec_nextU64_of_W64 (hv : s.gen.variant.W = 64) : exec .nextU64 s = .next
    ((s.setWords (advance s.gen.variant w)).respond 8
      (BitVec.ofNat 512 (scramble s.gen.variant w).toNat)) := by
  have value : ((scramble s.gen.variant w).setWidth 64).toNat = (scramble s.gen.variant w).toNat :=
    BitVec.toNat_setWidth_of_le hv.le
  rw [exec_nextU64_of_written h, draw64_of_W64 hv, ← value, BitVec.ofNat_toNat]

/-- `next_u64` on a 32-bit variant answers the pair of two consecutive native draws (R160). -/
theorem exec_nextU64_of_W32 (hv : s.gen.variant.W = 32) : exec .nextU64 s = .next
    ((s.setWords (advance s.gen.variant (advance s.gen.variant w))).respond 8
      (BitVec.ofNat 512 (if s.params.u64PairOrder = .lowFirst
        then (scramble s.gen.variant (advance s.gen.variant w)).toNat * 2 ^ 32 + (scramble s.gen.variant w).toNat
        else (scramble s.gen.variant w).toNat * 2 ^ 32 +
          (scramble s.gen.variant (advance s.gen.variant w)).toNat))) := by
  have value (x : BitVec s.gen.variant.W) : (x.setWidth 32).toNat = x.toNat := BitVec.toNat_setWidth_of_le hv.le
  rw [exec_nextU64_of_written h, draw64_of_W32 hv, ← value, ← value, ← toNat_pairDraws, BitVec.ofNat_toNat]

end

/-- Settles O36: word 0x31 is legal on every instance, and the two cases of the file are the laws above. -/
theorem scrambleCommandLeavesState : Obligations.ScrambleCommandLeavesState := by
  intro s
  exact ⟨decode_encode (i := .scramble) rfl, exec_of_words_unwritten rfl rfl, fun _ => exec_scramble_of_written⟩

/-- Settles O37: word 0x32 is legal on every instance, and the two cases of the file are the laws above. -/
theorem nextReturnsPreStepScramble : Obligations.NextReturnsPreStepScramble := by
  intro s
  exact ⟨decode_encode (i := .next) rfl, exec_of_words_unwritten rfl rfl, fun _ => exec_next_of_written⟩

/-- Settles O38: word 0x33 is legal on every instance, and a written file answers the half of its draw, read as
a number. -/
theorem nextU32TakesItsHalf : Obligations.NextU32TakesItsHalf := by
  intro s
  refine ⟨decode_encode (i := .nextU32) rfl, exec_of_words_unwritten rfl rfl, fun w h => ?_⟩
  have law := exec_nextU32_of_written h
  rw [← BitVec.ofNat_toNat, toNat_halfOfDraw] at law
  exact law

/-- Settles O39: word 0x34 is legal on every instance, and a written file answers by the width of its words. -/
theorem nextU64PairsDraws : Obligations.NextU64PairsDraws := by
  intro s
  exact ⟨decode_encode (i := .nextU64) rfl, exec_of_words_unwritten rfl rfl,
    fun _ h => ⟨exec_nextU64_of_W64 h, exec_nextU64_of_W32 h⟩⟩

end Sys2Proof.Machine

end


section
/-! SUPPORT. The statements that rest on spec/43_seeding.md: the expansion of a counter value in closed form
(R182), the commands `seed_u64` and `seed_sm` (R183, R184), and when an expansion is all zero (R185). -/

/-! ## The expansion of a counter value (R182) -/

namespace Sys2Proof

/-- A variant is of one of two widths (R3). -/
theorem Variant.W_eq_32_of_ne_64 {v : Variant} (h : v.W ≠ 64) : v.W = 32 := by
  cases v with
  | xoroshiro128Plus | xoroshiro128StarStar | xoshiro256Plus | xoshiro256StarStar | xoshiro512Plus
  | xoshiro512StarStar => exact absurd rfl h
  | xoroshiro64Star | xoroshiro64StarStar | xoshiro128Plus | xoshiro128StarStar => rfl

end Sys2Proof

namespace Sys2Proof.Machine

/-- The half of a draw that a word takes under `BYTEFILL`, as R182 writes it with a shift. -/
theorem setWidth_half {w : Nat} (hw : w ≤ 32) (i : Nat) (x : Word64) :
    (if i % 2 = 0 then lo32 x else hi32 x).setWidth w = (if i % 2 = 0 then x else x >>> 32).setWidth w := by
  split <;> refine BitVec.eq_of_toNat_eq ?_
  · rw [BitVec.toNat_setWidth, toNat_lo32, Nat.mod_mod_of_dvd _ (Nat.pow_dvd_pow 2 hw), BitVec.toNat_setWidth]
  · rw [BitVec.toNat_setWidth, toNat_hi32, BitVec.toNat_setWidth, BitVec.toNat_ushiftRight,
      Nat.shiftRight_eq_div_pow]

section
variable {v : Variant} {p : Params}

/-- `W = 64` and `TRUNCATE`: one draw for each word (R182). -/
theorem expandState_of_draws (h : v.W = 64 ∨ p.seedU64W32Mode = .truncate) (c : Word64) :
    expandState v p c = (wordsOfDraws v (expand c v.N).1, (expand c v.N).2) := by
  by_cases hv : v.W = 64
  · exact if_pos hv
  · rw [expandState, if_neg hv, h.resolve_left hv]

/-- `BYTEFILL` on a 32-bit variant: one draw for two words (R182). -/
theorem expandState_of_halves (h : ¬(v.W = 64 ∨ p.seedU64W32Mode = .truncate)) (c : Word64) :
    expandState v p c = (wordsOfHalves v (expand c (v.N / 2)).1, (expand c (v.N / 2)).2) := by
  obtain ⟨hv, hp⟩ := not_or.1 h
  rw [expandState, if_neg hv]
  cases hm : p.seedU64W32Mode with
  | truncate => exact absurd hm hp
  | byteFill => rfl

/-- Word `i` of an expansion (R182). -/
theorem expandState_getElem_eq_expandedWord (c : Word64) {i : Nat} (hi : i < v.N) :
    (expandState v p c).1[i] = expandedWord v p c i := by
  by_cases h : v.W = 64 ∨ p.seedU64W32Mode = .truncate
  · rw [expandState_of_draws h, expandedWord, if_pos h, wordsOfDraws, Vector.getElem_ofFn, expand_fst_getElem]
  · have hw : v.W = 32 := Variant.W_eq_32_of_ne_64 (not_or.1 h).1
    rw [expandState_of_halves h, expandedWord, if_neg h, wordsOfHalves, Vector.getElem_ofFn,
      expand_fst_getElem c (half_index_lt v hi), setWidth_half hw.le]

/-- The words of an expansion (R182). -/
theorem expandState_fst (v : Variant) (p : Params) (c : Word64) :
    (expandState v p c).1 = Vector.ofFn fun i => expandedWord v p c i.val :=
  Vector.ext fun i hi => by rw [expandState_getElem_eq_expandedWord, Vector.getElem_ofFn]

/-- The counter after an expansion (R182, R184). -/
theorem expandState_snd (v : Variant) (p : Params) (c : Word64) :
    (expandState v p c).2 = c + BitVec.ofNat 64 (drawsTaken v p) * gamma := by
  by_cases h : v.W = 64 ∨ p.seedU64W32Mode = .truncate
  · rw [expandState_of_draws h, drawsTaken, if_pos h, expand_snd]
  · rw [expandState_of_halves h, drawsTaken, if_neg h, expand_snd]

end

end Sys2Proof.Machine

/-! ## The commands `seed_u64` and `seed_sm` (R183, R184) -/

namespace Sys2Proof.Machine

/-- `seed_u64` writes the expansion of `arg64` to `S` (R183). -/
theorem exec_seedU64 (s : State) : exec .seedU64 s = .next ((s.setWords (Vector.ofFn fun i =>
    expandedWord s.gen.variant s.params s.sampled.arg64 i.val)).respond 0 0#512) := by
  rw [← expandState_fst]
  rfl

/-- `seed_sm` raises `UNSEEDED` on an unwritten counter (R184, R273). -/
theorem exec_seedSm_of_unwritten {s : State} (h : s.sm = none) :
    exec .seedSm s = .next (s.raise .unseeded) := congrArg Host.Outcome.next (State.withSm_none h _)

/-- `seed_sm` writes the expansion of a written counter to `S` and keeps the counter after it (R184). -/
theorem exec_seedSm_of_written {s : State} {c : Word64} (h : s.sm = some c) : exec .seedSm s = .next
    (((s.setWords (Vector.ofFn fun i => expandedWord s.gen.variant s.params c i.val)).setSm
      (c + BitVec.ofNat 64 (drawsTaken s.gen.variant s.params) * gamma)).respond 0 0#512) := by
  rw [← expandState_fst, ← expandState_snd]
  exact congrArg Host.Outcome.next (State.withSm_some h _)

/-- Settles O26: word 0x21 is legal on every instance, and the command is its equation. -/
theorem seedU64WritesExpansion : Obligations.SeedU64WritesExpansion := by
  intro s
  exact ⟨decode_encode (i := .seedU64) rfl, exec_seedU64 s⟩

/-- Settles O27: word 0x22 is legal on every instance, and the two cases of the counter are the laws above. -/
theorem seedSmWritesExpansionAndAdvances : Obligations.SeedSmWritesExpansionAndAdvances := by
  intro s
  exact ⟨decode_encode (i := .seedSm) rfl, exec_seedSm_of_unwritten, fun _ => exec_seedSm_of_written⟩

end Sys2Proof.Machine

/-! ## The all-zero expansions (R185) -/

namespace Sys2Proof.Machine

/-- A draw is zero exactly when its two halves are. -/
theorem eq_zero_iff_halves {w : Nat} (hw : w = 32) {x : Word64} :
    x = 0#64 ↔ x.setWidth w = 0#w ∧ (x >>> 32).setWidth w = 0#w := by
  subst hw
  simp only [← BitVec.toNat_inj, BitVec.toNat_setWidth, BitVec.toNat_ushiftRight, Nat.shiftRight_eq_div_pow,
    BitVec.toNat_zero]
  omega

/-- Under `BYTEFILL` word `i` of an expansion on a 32-bit variant is a half of draw `i/2 + 1` (R182). -/
theorem expandState_getElem_of_byteFill {v : Variant} {p : Params} (hv : v.W = 32)
    (hp : p.seedU64W32Mode = .byteFill) (c : Word64) {i : Nat} (hi : i < v.N) :
    (expandState v p c).1[i] = (if i % 2 = 0 then mix (c + BitVec.ofNat 64 (i / 2 + 1) * gamma)
      else mix (c + BitVec.ofNat 64 (i / 2 + 1) * gamma) >>> 32).setWidth v.W :=
  (expandState_getElem_eq_expandedWord c hi).trans (if_neg (by rw [hv, hp]; decide))

/-- Under `BYTEFILL` an expansion on a 32-bit variant is all zero exactly when the counter is zero at each of
its draws (R185): every draw gives both its halves. -/
theorem expandState_byteFill_eq_zero_iff {v : Variant} {p : Params} (hv : v.W = 32)
    (hp : p.seedU64W32Mode = .byteFill) (c : Word64) : (expandState v p c).1 = zeroWords v.W v.N ↔
      ∀ k < v.N / 2, c + BitVec.ofNat 64 (k + 1) * gamma = 0#64 := by
  rw [eq_zeroWords_iff]
  constructor
  · intro h k hk
    have low := h (2 * k) (by omega)
    have high := h (2 * k + 1) (by omega)
    rw [expandState_getElem_of_byteFill hv hp] at low high
    refine mix_eq_zero ((eq_zero_iff_halves hv).2 ⟨?_, ?_⟩)
    · simpa using low
    · simpa [Nat.mul_add_div] using high
  · intro h i hi
    rw [expandState_getElem_of_byteFill hv hp c hi, h (i / 2) (half_index_lt v hi), mixIsABijectionFixingZero.2]
    split <;> simp

/-- The first draw is at the zero counter for exactly one starting value (R104(e), R185(c)). -/
theorem first_counter_eq_zero_iff (c : Word64) :
    c + BitVec.ofNat 64 1 * gamma = 0#64 ↔ c = 0x61C8864680B583EB#64 :=
  add_eq_zero_iff_eq_neg

/-- Settles O28: two successive draws are not both zero, and a single draw is zero at one counter value. -/
theorem whenExpansionIsAllZero : Obligations.WhenExpansionIsAllZero := by
  intro v p c
  refine ⟨fun hv => expandState_ne_zero hv p c, fun hv hp h => ?_, fun hv hp => ?_⟩
  · obtain ⟨hW, hN⟩ : v.W = 32 ∧ v.N / 2 = 2 := by rcases hv with rfl | rfl <;> exact ⟨rfl, rfl⟩
    have draw := (expandState_byteFill_eq_zero_iff hW hp c).1 h
    rw [hN] at draw
    exact counter_not_both_zero c ⟨draw 0 (by decide), draw 1 (by decide)⟩
  · obtain ⟨hW, hN⟩ : v.W = 32 ∧ v.N / 2 = 1 := by rcases hv with rfl | rfl <;> exact ⟨rfl, rfl⟩
    rw [expandState_byteFill_eq_zero_iff hW hp, hN, ← first_counter_eq_zero_iff]
    simp only [Nat.lt_one_iff, forall_eq]

end Sys2Proof.Machine

end

section
/-! SUPPORT. The statements that rest on spec/44_output_adapter.md: `fill_bytes` as the bytes of successive native
draws (R200, R201, R204), the empty fill (R202), and the fill of an unseeded block (R203). -/

/-! ## The command `next` as a transaction (R158, R200) -/

namespace Sys2Proof.Machine

/-- The response of one native draw from the words `w` (R83, R158). -/
def drawResponse (v : Variant) (w : Words v) : Response :=
  ⟨none, BitVec.ofNat 7 v.WB, (scramble v w).setWidth 512⟩

@[simp] theorem length_lowBytes {w : Nat} (n : Nat) (x : BitVec w) : (lowBytes n x).length = n := by
  simp [lowBytes]

@[simp] theorem length_leBytes {w : Nat} (x : BitVec w) : (leBytes x).length = w / 8 := length_lowBytes _ x

/-- Widening a value leaves the bytes it had. -/
theorem lowBytes_setWidth {w m n : Nat} (hw : 8 * n ≤ w) (hm : w ≤ m) (x : BitVec w) :
    lowBytes n (x.setWidth m) = lowBytes n x := by
  refine List.map_congr_left fun j hj => BitVec.eq_of_getLsbD_eq fun b hb => ?_
  have hj' : j < n := List.mem_range.1 hj
  have inside : 8 * j + b < m := by omega
  simp [byteOf, inside]

@[simp] theorem drawResponse_err (v : Variant) (w : Words v) : (drawResponse v w).err = none := rfl

/-- A draw answers the bytes of its word (R13, R83). -/
@[simp] theorem drawResponse_bytes (v : Variant) (w : Words v) :
    (drawResponse v w).bytes = leBytes (scramble v w) := by
  have hlen : (BitVec.ofNat 7 v.WB).toNat = v.WB := by cases v <;> rfl
  have hport : v.W ≤ 512 := by cases v <;> decide
  rw [Response.bytes, drawResponse, hlen]
  exact lowBytes_setWidth (v.eight_mul_WB).le hport _

/-- The responses of `k` native draws from the words `w` on. -/
def drawResponses (v : Variant) (w : Words v) (k : Nat) : List Response :=
  (List.range k).map fun i => drawResponse v ((advance v)^[i] w)

@[simp] theorem length_drawResponses (v : Variant) (w : Words v) (k : Nat) :
    (drawResponses v w k).length = k := by simp [drawResponses]

/-- The first draw, and the draws from the advanced words on. -/
theorem drawResponses_succ (v : Variant) (w : Words v) (k : Nat) :
    drawResponses v w (k + 1) = drawResponse v w :: drawResponses v (advance v w) k := by
  rw [drawResponses, List.range_succ_eq_map, List.map_cons, List.map_map]
  rfl

/-- Every draw answers, with one word of bytes. -/
theorem drawResponses_ok {v : Variant} {w : Words v} {k : Nat} :
    ∀ x ∈ drawResponses v w k, x.err = none ∧ x.bytes.length = v.WB := by simp [drawResponses]

theorem flatMap_bytes_drawResponses (v : Variant) (w : Words v) (k : Nat) :
    (drawResponses v w k).flatMap Response.bytes =
      (List.range k).flatMap fun i => leBytes (scramble v ((advance v)^[i] w)) := by
  simp [drawResponses, List.flatMap_map]

/-- `next` on a written file answers the draw, advances the words by one step and changes no other register. -/
theorem State.transact_next_of_written {s : State} {v : Variant} {w : Words v} (h : s.gen = ⟨v, some w⟩) :
    ∃ t, s.transact (.plain .next) = some (drawResponse v w, t) ∧ t.gen = ⟨v, some (advance v w)⟩ ∧
      t.params = s.params ∧ t.sm = s.sm ∧ t.sticky = s.sticky := by
  obtain ⟨g, p, m, k, a, r, o, is⟩ := s
  obtain rfl : g = ⟨v, some w⟩ := h
  exact ⟨_, State.transact_of_accept
    ((State.accept_of_decode (decode_encode rfl)).trans (exec_next_of_written rfl)) rfl, rfl, rfl, rfl, rfl⟩

/-- `next` on an unwritten file answers `UNSEEDED` and records it, and changes no other register. -/
theorem State.transact_next_of_unwritten {s : State} (h : s.gen.words = none) :
    ∃ t, s.transact (.plain .next) = some (Response.error .unseeded, t) ∧ t.gen = s.gen ∧ t.sm = s.sm ∧
      t.sticky = s.sticky.record .unseeded :=
  ⟨_, State.transact_of_accept
    ((State.accept_of_decode (decode_encode rfl)).trans (exec_of_words_unwritten rfl rfl h)) rfl, rfl, rfl, rfl⟩

/-- `k` commands `next` on a written file answer the draws of `k` successive states (R204). -/
theorem State.runCommands_next_of_written {s : State} {v : Variant} {w : Words v} (h : s.gen = ⟨v, some w⟩)
    (k : Nat) :
    ∃ t, s.runCommands (List.replicate k (.plain .next)) = some (drawResponses v w k, t) ∧
      t.gen = ⟨v, some ((advance v)^[k] w)⟩ ∧ t.params = s.params ∧ t.sm = s.sm ∧ t.sticky = s.sticky := by
  induction k generalizing s w with
  | zero => exact ⟨s, rfl, h, rfl, rfl, rfl⟩
  | succ k ih =>
    obtain ⟨t, ht, hg, hp, hm, hk⟩ := State.transact_next_of_written h
    obtain ⟨u, hu, hg', hp', hm', hk'⟩ := ih hg
    refine ⟨u, ?_, hg', hp'.trans hp, hm'.trans hm, hk'.trans hk⟩
    rw [List.replicate_succ, drawResponses_succ, State.runCommands_cons ht hu]

end Sys2Proof.Machine

/-! ## The loop of a fill (R200) -/

namespace Sys2Proof.Machine

section
variable {n fuel : Nat} {others : List (List Request)} {buf : List Byte} {s t : State} {x : Response}

/-- A full buffer ends the loop. -/
theorem fillLoop_of_full (h : n ≤ buf.length) : fillLoop n fuel others buf s = some (.ok buf, s) := by
  cases fuel with
  | zero => rfl
  | succ fuel => rw [fillLoop, if_neg h.not_gt]

/-- A draw that answers is appended as far as it fits. -/
theorem fillLoop_of_draw (h : buf.length < n)
    (hx : s.issueAmong (others.headD []) (.plain .next) = some (x, t)) (he : x.err = none) :
    fillLoop n (fuel + 1) others buf s =
      fillLoop n fuel others.tail (buf ++ x.bytes.take (n - buf.length)) t := by
  simp only [fillLoop, if_pos h, hx, he]

/-- A draw that fails ends the loop with its error. -/
theorem fillLoop_of_error {e : Err} (h : buf.length < n)
    (hx : s.issueAmong (others.headD []) (.plain .next) = some (x, t)) (he : x.err = some e) :
    fillLoop n (fuel + 1) others buf s = some (.error e, t) := by
  simp only [fillLoop, if_pos h, hx, he]

end

/-- Where as many commands `next` as the missing bytes take, at `m` bytes each, all answer, the loop leaves the
state they leave, and their bytes fill the buffer, the last one's as far as they fit (R200, R201). -/
theorem fillLoop_eq_of_runCommands {n m fuel : Nat} {buf : List Byte} {s t : State} {xs : List Response}
    (hrun : s.runCommands (List.replicate xs.length (.plain .next)) = some (xs, t))
    (hok : ∀ x ∈ xs, x.err = none ∧ x.bytes.length = m) (hfuel : n ≤ buf.length + fuel)
    (henough : n ≤ buf.length + xs.length * m) (hneeded : buf.length + xs.length * m < n + m) :
    fillLoop n fuel [] buf s = some (.ok (buf ++ (xs.flatMap Response.bytes).take (n - buf.length)), t) := by
  induction xs generalizing fuel buf s with
  | nil =>
    cases hrun
    rw [List.flatMap_nil, List.take_nil, List.append_nil]
    exact fillLoop_of_full (by simpa using henough)
  | cons x xs ih =>
    obtain ⟨⟨herr, hbytes⟩, hrest⟩ := List.forall_mem_cons.1 hok
    rw [List.length_cons, Nat.succ_mul] at henough hneeded
    obtain ⟨fuel, rfl⟩ : ∃ f, fuel = f + 1 := ⟨fuel - 1, by omega⟩
    obtain ⟨y, s', hy, _⟩ := s.transact_answers (.plain .next)
    obtain ⟨ys, u, hys, _⟩ := s'.runCommands_answers (List.replicate xs.length (.plain .next))
    cases (State.runCommands_cons hy hys).symm.trans hrun
    have hlen : (buf ++ x.bytes.take (n - buf.length)).length = buf.length + min (n - buf.length) m := by
      rw [List.length_append, List.length_take, hbytes]
    have hmissing : n - (buf.length + min (n - buf.length) m) = n - buf.length - m := by omega
    have hlt : buf.length < n := by omega
    rw [fillLoop_of_draw (others := []) hlt hy herr, List.tail_nil,
      ih hys hrest (by omega) (by omega) (by omega), hlen, hmissing, List.flatMap_cons, List.take_append, hbytes,
      List.append_assoc]

/-- Settles O40: the draws of `k` commands `next` are enough bytes and no more draws than needed. -/
theorem fillBytesIsConcatenatedDraws : Obligations.FillBytesIsConcatenatedDraws := by
  intro s w n h k
  obtain ⟨t, hrun, hg, hp, hm, hk⟩ := State.runCommands_next_of_written (congrArg (Generator.mk s.gen.variant) h) k
  have hWB : 0 < s.gen.variant.WB := by cases s.gen.variant <;> decide
  have hle : k * s.gen.variant.WB ≤ n + s.gen.variant.WB - 1 := Nat.div_mul_le_self _ _
  have hlt : n + s.gen.variant.WB - 1 < k * s.gen.variant.WB + s.gen.variant.WB := Nat.lt_div_mul_add hWB
  have hlen := length_drawResponses s.gen.variant w k
  have hfill := fillLoop_eq_of_runCommands (n := n) (fuel := n) (buf := [])
    (xs := drawResponses s.gen.variant w k) (by rw [hlen]; exact hrun) drawResponses_ok
    (by rw [List.length_nil]; omega) (by rw [hlen, List.length_nil]; omega) (by rw [hlen, List.length_nil]; omega)
  rw [flatMap_bytes_drawResponses] at hfill
  exact ⟨t, _, hfill, hrun, hlen, hg, hp, hm, hk⟩

/-- Settles O41: the empty buffer is full at once, and the first draw of an unseeded block fails. -/
theorem fillOfNothingAndOfAnUnseededBlock : Obligations.FillOfNothingAndOfAnUnseededBlock := by
  intro s
  refine ⟨fillLoop_of_full le_rfl, fillLoop_of_full le_rfl, fun h n hn => ?_⟩
  obtain ⟨t, ht, hg, hm, hk⟩ := State.transact_next_of_unwritten h
  obtain ⟨m, rfl⟩ := Nat.exists_eq_succ_of_ne_zero hn.ne'
  exact ⟨t, fillLoop_of_error hn ht rfl, hg, hm, hk⟩

end Sys2Proof.Machine

end

section
/-! SUPPORT. The statements that rest on spec/45_jump_operator.md: the jump as a linear map (R221, R226(b), (c)),
the command `jump` (R224, R225), and the number of steps that one jump stands for (R220, R223, R226(a)). -/

/-! ## The jump as a linear map (R226) -/

namespace Sys2Proof.Laws
open Machine

/-- The jump is linear (R226(b)). -/
theorem jumpState_xorWords (v : Variant) (p : Params) (x y : Words v) :
    jumpState v p (xorWords x y) = xorWords (jumpState v p x) (jumpState v p y) := by
  simp only [jumpState_eq_evalAt]
  exact evalAt_add (xorSpace_words v.W v.N) (advance_xorWords v) _ _ x y

/-- The jump commutes with the single step (R226(c)). -/
theorem jumpState_advance (v : Variant) (p : Params) (w : Words v) :
    jumpState v p (advance v w) = advance v (jumpState v p w) := by
  simp only [jumpState_eq_evalAt]
  exact evalAt_map (xorSpace_words v.W v.N) (advance_xorWords v) _ _ w

/-- Settles O44: the jump is a polynomial in the update map, which is linear. -/
theorem jumpIsLinearAndCommutesWithStep : Obligations.JumpIsLinearAndCommutesWithStep := by
  intro v p
  exact ⟨jumpState_xorWords v p, jumpState_zeroWords v p, jumpState_advance v p⟩

end Sys2Proof.Laws

/-! ## The distance of a jump (R220, R223, R226(a)) -/

namespace Sys2Proof.Laws
open Machine

/-- A jump stands for 2 to this power of steps (R220, R223); on variants 6 and 7 for a single step (R224). -/
def jumpLog2 (v : Variant) (p : Params) : Nat :=
  match v with
  | .xoroshiro128Plus | .xoroshiro128StarStar | .xoshiro128Plus | .xoshiro128StarStar => 64
  | .xoshiro256Plus | .xoshiro256StarStar =>
    match p.xoshiro256JumpLog2 with
    | .log128 => 128
    | .log64 => 64
  | .xoshiro512Plus | .xoshiro512StarStar => 256
  | .xoroshiro64Star | .xoroshiro64StarStar => 0

/-! Each table of R222 is the power of `x` of its distance, modulo the characteristic polynomial (R227). -/

theorem xoroshiro128Jump_eq_xPow :
    xPowModFast (characteristicPoly .xoroshiro128Plus) 128 65 (2 ^ 64) = packWords xoroshiro128Jump.toList := by
  decide +kernel

theorem xoshiro256Jump128_eq_xPow :
    xPowModFast (characteristicPoly .xoshiro256Plus) 256 129 (2 ^ 128) = packWords xoshiro256Jump128.toList := by
  decide +kernel

theorem xoshiro256Jump64_eq_xPow :
    xPowModFast (characteristicPoly .xoshiro256Plus) 256 65 (2 ^ 64) = packWords xoshiro256Jump64.toList := by
  decide +kernel

theorem xoshiro512Jump_eq_xPow :
    xPowModFast (characteristicPoly .xoshiro512Plus) 512 257 (2 ^ 256) = packWords xoshiro512Jump.toList := by
  decide +kernel

theorem xoroshiro64Jump_eq_xPow :
    xPowModFast (characteristicPoly .xoroshiro64Star) 64 1 (2 ^ 0) = packWords xoroshiro64Jump.toList := by
  decide +kernel

theorem xoshiro128Jump_eq_xPow :
    xPowModFast (characteristicPoly .xoshiro128Plus) 128 65 (2 ^ 64) = packWords xoshiro128Jump.toList := by
  decide +kernel

/-- The table of an instance is the power of `x` of its distance (R222, R227). -/
theorem jumpPoly_eq_xPow (v : Variant) (p : Params) :
    xPowModFast (characteristicPoly v) v.SB (jumpLog2 v p + 1) (2 ^ jumpLog2 v p) =
      packWords (jumpPoly v p).toList := by
  cases v with
  | xoroshiro128Plus | xoroshiro128StarStar => exact xoroshiro128Jump_eq_xPow
  | xoshiro256Plus | xoshiro256StarStar =>
    rw [jumpLog2, jumpPoly]
    cases p.xoshiro256JumpLog2 with
    | log128 => exact xoshiro256Jump128_eq_xPow
    | log64 => exact xoshiro256Jump64_eq_xPow
  | xoshiro512Plus | xoshiro512StarStar => exact xoshiro512Jump_eq_xPow
  | xoroshiro64Star | xoroshiro64StarStar => exact xoroshiro64Jump_eq_xPow
  | xoshiro128Plus | xoshiro128StarStar => exact xoshiro128Jump_eq_xPow

/-- A jump is as many steps as its distance says (R226(a)): both are one power of `x` at the update map. -/
theorem jumpState_eq_iterate (v : Variant) (p : Params) (w : Words v) :
    jumpState v p w = (advance v)^[2 ^ jumpLog2 v p] w := by
  obtain ⟨hp, hd⟩ := characteristicPoly_degree v
  have h1 : 1 ≤ v.SB := by cases v <;> decide
  rw [jumpState_eq_evalAt, ← jumpPoly_eq_xPow, xPowModFast_eq hp hd h1]
  exact (iterate_eq_evalAt (xorSpace_words v.W v.N) (advance_xorWords v) hp hd (evalAt_characteristicPoly v) h1
    (Nat.pow_lt_pow_succ Nat.one_lt_two) w).symm

end Sys2Proof.Laws

/-! ## The command `jump` (R224, R225) -/

namespace Sys2Proof.Machine

/-- `jump` on an instance that has one raises `UNSEEDED` on an unwritten file (R225, R273). -/
theorem exec_jump_of_unwritten {s : State} (hj : s.jumpPresent = true) (h : s.gen.words = none) :
    exec .jump s = .next (s.raise .unseeded) := exec_of_words_unwritten hj rfl h

section
variable {s : State} {w : Words s.gen.variant} (hj : s.jumpPresent = true) (h : s.gen.words = some w)
include hj h

/-- `jump` on an instance that has one applies `jump_state` to a written file and answers with no result (R225). -/
theorem exec_jump_of_written :
    exec .jump s = .next ((s.setWords (jumpState s.gen.variant s.params w)).respond 0 0#512) :=
  (exec_jump_present hj).trans (congrArg Host.Outcome.next (State.withWords_some h _))

/-- `jump` advances a written file by its distance (R226(a)). -/
theorem exec_jump_of_distance {k : Nat} (hk : Laws.jumpLog2 s.gen.variant s.params = k) :
    exec .jump s = .next ((s.setWords ((advance s.gen.variant)^[2 ^ k] w)).respond 0 0#512) := by
  rw [exec_jump_of_written hj h, Laws.jumpState_eq_iterate, hk]

end

/-- Settles O42: word 0x40 decodes where there is a jump, and each case of the command is its law above. -/
theorem jumpCommandReplacesState : Obligations.JumpCommandReplacesState := by
  intro s
  exact ⟨decode_jump_word _ _, exec_jump_absent, exec_jump_of_unwritten, fun _ => exec_jump_of_written⟩

/-- Variants 0, 1, 8 and 9 have a jump of 2^64 steps (R220). -/
theorem jump_distance_of_128BitStates {v : Variant} (p : Params)
    (hv : v ∈ [.xoroshiro128Plus, .xoroshiro128StarStar, .xoshiro128Plus, .xoshiro128StarStar]) :
    jumpPresent v p = true ∧ Laws.jumpLog2 v p = 64 := by
  simp only [List.mem_cons, List.not_mem_nil, or_false] at hv
  rcases hv with rfl | rfl | rfl | rfl <;> exact ⟨rfl, rfl⟩

/-- Settles O46: the jump of these variants is 2^64 steps. -/
theorem jumpDistanceOf128BitStates : Obligations.JumpDistanceOf128BitStates := by
  intro s w hv h
  obtain ⟨hj, hk⟩ := jump_distance_of_128BitStates s.params hv
  exact exec_jump_of_distance hj h hk

/-- Variants 2 and 3 have a jump whose distance is the parameter's (R220, R223). -/
theorem jump_distance_of_xoshiro256 {v : Variant} (p : Params) (hv : v ∈ [.xoshiro256Plus, .xoshiro256StarStar]) :
    jumpPresent v p = true ∧ Laws.jumpLog2 v p = if p.xoshiro256JumpLog2 = .log128 then 128 else 64 := by
  have hk : Laws.jumpLog2 .xoshiro256Plus p = if p.xoshiro256JumpLog2 = .log128 then 128 else 64 := by
    rw [Laws.jumpLog2]
    cases p.xoshiro256JumpLog2 <;> rfl
  simp only [List.mem_cons, List.not_mem_nil, or_false] at hv
  rcases hv with rfl | rfl <;> exact ⟨rfl, hk⟩

/-- Settles O47: the jump of these variants is as many steps as the parameter says. -/
theorem jumpDistanceOfXoshiro256 : Obligations.JumpDistanceOfXoshiro256 := by
  intro s w hv h
  obtain ⟨hj, hk⟩ := jump_distance_of_xoshiro256 s.params hv
  exact exec_jump_of_distance hj h hk

/-- Variants 4 and 5 have a jump of 2^256 steps (R220). -/
theorem jump_distance_of_xoshiro512 {v : Variant} (p : Params) (hv : v ∈ [.xoshiro512Plus, .xoshiro512StarStar]) :
    jumpPresent v p = true ∧ Laws.jumpLog2 v p = 256 := by
  simp only [List.mem_cons, List.not_mem_nil, or_false] at hv
  rcases hv with rfl | rfl <;> exact ⟨rfl, rfl⟩

/-- Settles O48: the jump of these variants is 2^256 steps. -/
theorem jumpDistanceOfXoshiro512 : Obligations.JumpDistanceOfXoshiro512 := by
  intro s w hv h
  obtain ⟨hj, hk⟩ := jump_distance_of_xoshiro512 s.params hv
  exact exec_jump_of_distance hj h hk

/-! ## The jump of variants 6 and 7 (R224) -/

section
variable {v : Variant} (hv : v = .xoroshiro64Star ∨ v = .xoroshiro64StarStar) (p : Params)
include hv

/-- On variants 6 and 7 the parameter alone says whether there is a jump (R224). -/
theorem jumpPresent_xoroshiro64 : jumpPresent v p = (p.xoroshiro64Jump == .oneStepEquiv) := by
  rcases hv with rfl | rfl <;> rfl

/-- On variants 6 and 7 the table is the polynomial `x`, so a jump is one step (R224). -/
theorem jumpState_xoroshiro64 (w : Words v) : jumpState v p w = advance v w := by
  have hk : Laws.jumpLog2 v p = 0 := by rcases hv with rfl | rfl <;> rfl
  rw [Laws.jumpState_eq_iterate, hk, Nat.pow_zero, Function.iterate_one]

end

/-- On variants 6 and 7 `jump`, where there is one, does what `step` does (R224). -/
theorem exec_jump_eq_exec_step {s : State}
    (hv : s.gen.variant = .xoroshiro64Star ∨ s.gen.variant = .xoroshiro64StarStar) (hj : s.jumpPresent = true) :
    exec .jump s = exec .step s := by
  rcases h : s.gen.words with _ | w
  · rw [exec_jump_of_unwritten hj h, exec_step_of_unwritten h]
  · rw [exec_jump_of_written hj h, exec_step_of_written h, jumpState_xoroshiro64 hv]

/-- Settles O45: the word and `STATUS` both follow `JUMP_PRESENT`, which is the parameter. -/
theorem jumpOfXoroshiro64 : Obligations.JumpOfXoroshiro64 := by
  intro s hv
  have hj : s.jumpPresent = (s.params.xoroshiro64Jump == .oneStepEquiv) := jumpPresent_xoroshiro64 hv s.params
  rw [decode_jump_word, s.statusWord_jumpPresent]
  constructor <;> intro hp <;> rw [hp] at hj
  · exact ⟨if_neg (ne_true_of_eq_false hj), hj⟩
  · exact ⟨if_pos hj, hj, exec_jump_eq_exec_step hv hj⟩

end Sys2Proof.Machine

end

section
/-! SUPPORT. The statements that rest on spec/46_status_and_readback.md: the commands `read_state` (R250), `status`
(R251) and `status_clr` (R252), and the value of `STATUS` after reset (R34, R41). -/

/-! ## The command `read_state` (R62, R250) -/

namespace Sys2Proof.Machine

/-- `read_state` answers the bytes of a written file and keeps it (R250). -/
theorem exec_readState_of_written {s : State} {w : Words s.gen.variant} (h : s.gen.words = some w) :
    exec .readState s = .next (s.respond s.gen.variant.L (packBytes (stateBytes s.gen.variant w))) :=
  congrArg Host.Outcome.next (State.withWords_some h _)

/-- Settles O50: word 0x50 is legal on every instance, and the bytes of a written file hold each word at its place
and fit the `L` bytes of the result. -/
theorem readStateReturnsWords : Obligations.ReadStateReturnsWords := by
  intro s
  refine ⟨decode_encode (i := .readState) rfl, exec_of_words_unwritten rfl rfl, fun w h => ?_⟩
  exact ⟨packBytes (stateBytes s.gen.variant w), exec_readState_of_written h,
    fun _ hi => extractLsb'_packBytes_stateBytes w hi, packBytes_stateBytes_lt w⟩

end Sys2Proof.Machine

/-! ## The command `status_clr` (R252) -/

namespace Sys2Proof.Machine

/-- `status_clr` clears the sticky bits and answers with no result (R252). -/
theorem exec_statusClr (s : State) :
    exec .statusClr s = .next (State.respond { s with sticky := Sticky.clear } 0 0#512) := rfl

/-- `STATUS` shows nothing of the response and the sampled ports, so the end of a command leaves it (R34). -/
@[simp] theorem State.respond_statusWord (s : State) (n : Nat) (x : Lanes) :
    (s.respond n x).statusWord = s.statusWord := rfl

/-- A mask given field by field, with the three bits above the lowest two 0, clears those bits alone. -/
theorem append_and_mask {n : Nat} (hard : BitVec n) (unseeded illegal invalid smSeeded seeded : BitVec 1) :
    (hard ++ unseeded ++ illegal ++ invalid ++ smSeeded ++ seeded) &&&
        (BitVec.allOnes n ++ 0#1 ++ 0#1 ++ 0#1 ++ BitVec.allOnes 1 ++ BitVec.allOnes 1) =
      hard ++ 0#1 ++ 0#1 ++ 0#1 ++ smSeeded ++ seeded := by
  simp only [BitVec.and_append, BitVec.and_allOnes, BitVec.and_zero]

/-- With no sticky bit set `STATUS` has bits 4:2 cleared and every other bit as it was (R34, R252). -/
theorem State.statusWord_clear_sticky (s : State) :
    State.statusWord { s with sticky := Sticky.clear } = s.statusWord &&& 0xFFFFFFE3#32 :=
  (append_and_mask (n := 27) _ _ _ _ _ _).symm

/-- Settles O12: word 0x52 is legal on every instance, the command is its equation, and without sticky bits
`STATUS` is masked. -/
theorem statusClrClearsOnlyStickyBits : Obligations.StatusClrClearsOnlyStickyBits := by
  intro s
  refine ⟨decode_encode (i := .statusClr) rfl, _, exec_statusClr s, rfl, ?_⟩
  rw [State.respond_statusWord, State.statusWord_clear_sticky]

end Sys2Proof.Machine

/-! ## The command `status` and `STATUS` after reset (R34, R41, R251) -/

namespace Sys2Proof.Machine

/-- `status` answers the `STATUS` register (R251). -/
theorem exec_status (s : State) : exec .status s = .next (s.respond 4 (s.statusWord.setWidth 512)) := rfl

/-- `STATUS` with every flag 0, on an instance of variant `v` with `JUMP_PRESENT = j` (R34, R41). -/
def resetStatus (v : Variant) (j : Bool) : BitVec 32 :=
  0#7 ++ BitVec.ofBool j ++ BitVec.ofNat 4 v.N ++ BitVec.ofNat 4 v.WB ++ 0#4 ++ variantId v ++ 0#8

/-- Of the parameters, `STATUS` after reset shows `JUMP_PRESENT` alone. -/
theorem State.statusWord_resetOf (v : Variant) (p : Params) :
    (State.resetOf v p).statusWord = resetStatus v (Sys2Proof.jumpPresent v p) := by
  have flags {n : Nat} (hard : BitVec n) :
      (hard ++ 0#3 ++ 0#1 ++ 0#1 ++ 0#1 ++ 0#1 ++ 0#1).toNat = (hard ++ 0#8).toNat := by
    simp [BitVec.toNat_append, ← Nat.shiftLeft_add]
  exact BitVec.eq_of_toNat_eq (flags (n := 24) _)

/-- The rows of R251 for a variant with a jump under every parameter. -/
theorem State.statusWord_resetOf_of_jumpPresent {v : Variant} {p : Params}
    (hj : Sys2Proof.jumpPresent v p = true) : (State.resetOf v p).statusWord = resetStatus v true := by
  rw [State.statusWord_resetOf, hj]

/-- The rows of R251 for variants 6 and 7, by the parameter (R224). -/
theorem State.statusWord_resetOf_xoroshiro64 {v : Variant} (hv : v = .xoroshiro64Star ∨ v = .xoroshiro64StarStar)
    (p : Params) : (State.resetOf v p).statusWord =
      if p.xoroshiro64Jump = .absent then resetStatus v false else resetStatus v true := by
  rw [State.statusWord_resetOf, jumpPresent_xoroshiro64 hv]
  cases p.xoroshiro64Jump <;> rfl

/-- Settles O10: word 0x51 is legal on every instance, the command is its equation, and each row of the table is
`resetStatus` evaluated. -/
theorem statusCommandAndResetValues : Obligations.StatusCommandAndResetValues := by
  refine ⟨fun s => ⟨decode_encode (i := .status) rfl, exec_status s⟩, fun p => ?_⟩
  rw [State.statusWord_resetOf_xoroshiro64 (.inl rfl), State.statusWord_resetOf_xoroshiro64 (.inr rfl)]
  iterate 8 rw [State.statusWord_resetOf_of_jumpPresent rfl]
  refine ⟨?_, ?_, ?_, ?_, ?_, ?_, ?_, ?_, ?_, ?_⟩ <;> rfl

end Sys2Proof.Machine

end

section
/-! SUPPORT. The statements that rest on spec/60_exceptions.md and spec/70_reset_and_hazards.md: the errors of the
commands (R270 to R276), reset (R300), what the block computes from (R302), the set-up of parallel streams (R303)
and the host's duty to hold an offer (R304). -/

/-! ## The edges at which no command is accepted (R300, R304) -/

namespace Sys2Proof.Machine

section
variable {s : State} {q : Slot}

/-- Reset goes before everything else (R300). -/
theorem State.edge_reset (hr : q.rst = true) : s.edge q = .next s.applyReset := by simp [State.edge, hr]

/-- The one move R304 does not give. -/
theorem State.edge_broken (hr : q.rst = false) (hb : s.breaksOffer q = true) :
    s.edge q = .fault .hostChangedOffer := by simp [State.edge, hr, hb]

/-- An idle block to which nothing is offered holds its state. -/
theorem State.edge_silent (hr : q.rst = false) (hb : s.breaksOffer q = false) (hv : q.cmdValid = false)
    (hx : s.rsp = none) : s.edge q = .next s := by simp [State.edge, hr, hb, hv, hx]

/-- Beside a waiting response an offer is noted, and the response is taken where the host is ready (R82(b)). -/
theorem State.edge_noting {x : Response} (hr : q.rst = false) (hb : s.breaksOffer q = false)
    (hx : s.rsp = some x) : s.edge q = .next (
      let u := if q.cmdValid then s.noteOffer q.req else s
      if q.rspReady then u.take else u) := by simp [State.edge, hr, hb, hx]

/-- An edge at which the host keeps its duty answers a next state (R270). -/
theorem State.edge_answers (h : q.rst = true ∨ s.breaksOffer q = false) : ∃ t, s.edge q = .next t := by
  rcases s.edge_cases q with
    ⟨_, e⟩ | ⟨hr, hb, _⟩ | ⟨_, _, _, e⟩ | ⟨_, _, _, _, e⟩ | ⟨_, _, _, _, e⟩
  · exact ⟨_, e⟩
  · simp [hr, hb] at h
  · exact ⟨_, e⟩
  · obtain ⟨t, ht, _⟩ := s.accept_responds q.req
    exact ⟨t, e.trans ht⟩
  · exact ⟨_, e⟩

end

theorem State.hostKeepsOffer_nil {s : State} (h : s.inputs = []) : s.hostKeepsOffer = true := by
  simp [State.hostKeepsOffer, h]

theorem State.hostKeepsOffer_cons {s : State} {q : Slot} {qs : List Slot} (h : s.inputs = q :: qs) :
    s.hostKeepsOffer = (q.rst || !s.breaksOffer q) := by simp [State.hostKeepsOffer, h]

/-- Settles O9: a step is an edge, or changes nothing. -/
theorem onlyABrokenOfferStopsTheBlock : Obligations.OnlyABrokenOfferStopsTheBlock := by
  intro s
  rcases hq : s.inputs with _ | ⟨q, qs⟩
  · exact ⟨fun _ => ⟨s, step_nil hq⟩, fun h => nomatch h.symm.trans (State.hostKeepsOffer_nil hq)⟩
  · rw [State.hostKeepsOffer_cons hq, step_cons hq]
    refine ⟨fun h => State.edge_answers (s := { s with inputs := qs }) ?_, fun h => ?_⟩
    · rwa [Bool.or_eq_true, Bool.not_eq_true'] at h
    · rw [Bool.or_eq_false_iff, Bool.not_eq_false'] at h
      exact State.edge_broken (s := { s with inputs := qs }) h.1 h.2

/-- Settles O7: the edge is `applyReset`, after which the block is idle. -/
theorem resetAtAnyEdge : Obligations.ResetAtAnyEdge := by
  intro s q qs hq hr
  have hout : s.output = none := by simp [State.output_cons hq, State.rspValid, hr]
  refine ⟨by simp [State.cmdReady, hr], by simp [State.rspValid, hr], State.applyReset { s with inputs := qs },
    (step_cons hq).trans (State.edge_reset hr), ?_⟩
  exact ⟨rfl, rfl, rfl, rfl, rfl, rfl, hout, rfl, rfl, rfl, rfl, rfl⟩

end Sys2Proof.Machine

/-! ## Blocks that differ in the ports sampled earlier (R302) -/

namespace Sys2Proof.Machine

/-- The same block with other values on the ports sampled earlier. -/
def State.withSampled (s : State) (a : Args) : State := { s with sampled := a }

/-- Of two blocks that agree, one is the other with other ports sampled. -/
theorem State.eq_withSampled_of_sameBlock {s t : State} (h : s.sameBlock t = true) (hi : s.inputs = t.inputs)
    (ho : s.offered = t.offered) : t = s.withSampled t.sampled := by
  obtain ⟨hg, hp, hm, hk, hx⟩ := State.sameBlock_iff.1 h
  simp only [State.withSampled, hg, hp, hm, hk, hx, hi, ho]

theorem State.sameBlock_withSampled (s : State) (a : Args) : s.sameBlock (s.withSampled a) = true :=
  State.sameBlock_iff.2 ⟨rfl, rfl, rfl, rfl, rfl⟩

/-- An edge overwrites the ports sampled earlier or leaves them as they were, and reads them in neither case: a
reset and an accepted command overwrite them (R82(a), R300). -/
theorem State.edge_withSampled (s : State) (a : Args) (q : Slot) :
    (s.withSampled a).edge q = s.edge q ∨
      ∃ u, s.edge q = .next u ∧ (s.withSampled a).edge q = .next (u.withSampled a) := by
  rcases s.edge_cases q with
    ⟨hr, e⟩ | ⟨hr, hb, e⟩ | ⟨hr, hb, ⟨x, hx⟩, e⟩ | ⟨hr, hb, hx, hv, e⟩ | ⟨hr, hb, hx, hv, e⟩
  · exact .inl ((State.edge_reset hr).trans e.symm)
  · exact .inl ((State.edge_broken (s := s.withSampled a) hr hb).trans e.symm)
  · refine .inr ⟨_, e, (State.edge_noting (s := s.withSampled a) hr hb hx).trans ?_⟩
    cases q.cmdValid <;> cases q.rspReady <;> rfl
  · exact .inl ((State.edge_idle (s := s.withSampled a) hr hb hv hx).trans e.symm)
  · exact .inr ⟨s, e, State.edge_silent (s := s.withSampled a) hr hb hv hx⟩

/-- A step too overwrites the ports sampled earlier or leaves them as they were, and reads them in neither case. -/
theorem step_withSampled (s : State) (a : Args) :
    step (s.withSampled a) = step s ∨
      ∃ u, step s = .next u ∧ step (s.withSampled a) = .next (u.withSampled a) := by
  rcases hq : s.inputs with _ | ⟨q, qs⟩
  · exact .inr ⟨s, step_nil hq, step_nil (s := s.withSampled a) hq⟩
  · rw [step_cons hq, step_cons (s := s.withSampled a) hq]
    exact State.edge_withSampled { s with inputs := qs } a q

/-- Settles O58: the two blocks differ in the ports sampled earlier alone, and the output reads none of them. -/
theorem blockDependsOnlyOnArchitecturalState : Obligations.BlockDependsOnlyOnArchitecturalState := by
  intro s t h hi ho
  rw [State.eq_withSampled_of_sameBlock h hi ho]
  refine ⟨rfl, ?_⟩
  rcases step_withSampled s t.sampled with e | ⟨u, hs, ht⟩
  · rw [e]
    cases step s with
    | next u => exact ⟨u.sameBlock_refl, rfl, rfl⟩
    | fault | refused => rfl
  · rw [hs, ht]
    exact ⟨u.sameBlock_withSampled _, rfl, rfl⟩

end Sys2Proof.Machine

/-! ## Commands that end with an error (R271 to R276) -/

namespace Sys2Proof.Machine

/-- A word of no legal command is accepted with `ILLEGAL_COMMAND` (R272). -/
theorem State.accept_of_decode_none {s : State} {r : Request} (h : decode s.gen.variant s.params r.cmd = none) :
    s.accept r = .next (State.raise { s with sampled := r.args, offered := none } .illegalCommand) := by
  obtain ⟨_, _, _, _, raises⟩ := decoderOfEveryInstance s.gen.variant s.params
  exact raises s r h

/-- Settles O5: the idle block accepts the word, which does not decode. -/
theorem illegalWordsRaiseIllegalCommand : Obligations.IllegalWordsRaiseIllegalCommand := by
  intro s q qs hq hr hv hx hb hw
  have hstep : step s = .next
      (State.raise { s with inputs := qs, sampled := q.req.args, offered := none } .illegalCommand) :=
    calc step s = State.edge { s with inputs := qs } q := step_cons hq
      _ = State.accept { s with inputs := qs } q.req := State.edge_idle hr hb hv hx
      _ = _ := State.accept_of_decode_none (decode_eq_none.2 hw)
  exact ⟨_, hstep, rfl, rfl, rfl, rfl, rfl, rfl, rfl, rfl, rfl, State.output_idle hx⟩

/-- A command whose response is an error has raised it and done nothing else. -/
theorem Result.eq_raise {s t : State} {i : Instr} {x : Response} {e : Err} (h : Result s i t)
    (hx : t.rsp = some x) (he : x.err = some e) : t = s.raise e := by
  cases h with
  | raised e' =>
    cases hx
    cases he
    rfl
  | responded _ n y =>
    cases hx
    cases he

/-- The same of a word accepted: `ILLEGAL_COMMAND` is raised, or its command does the rest (R274). -/
theorem State.accept_eq_raise {s t : State} {r : Request} {x : Response} {e : Err} (h : s.accept r = .next t)
    (hx : t.rsp = some x) (he : x.err = some e) :
    t = State.raise { s with sampled := r.args, offered := none } e := by
  rcases s.accept_cases r with ⟨_, ha⟩ | ⟨i, _, ha⟩
  · cases ha.symm.trans h
    cases hx
    cases he
    rfl
  · exact (exec_result (ha.symm.trans h)).eq_raise hx he

/-- Settles O17: the next state is that of raising the error. -/
theorem errorsChangeOnlyTheirStickyBit : Obligations.ErrorsChangeOnlyTheirStickyBit := by
  intro s t r x e h hx he
  obtain rfl := State.accept_eq_raise h hx he
  cases hx
  refine ⟨rfl, rfl, rfl, rfl, rfl, Sticky.record_invalidSeed _ e, Sticky.record_illegalCommand _ e,
    Sticky.record_unseeded _ e, ?_⟩
  cases e <;> rfl

theorem State.seeded_eq_false {s : State} : s.seeded = false ↔ s.gen.words = none := by
  simp [State.seeded]

theorem State.smSeeded_eq_false {s : State} : s.smSeeded = false ↔ s.sm = none := by
  simp [State.smSeeded]

/-- A command that reads `sm` raises `UNSEEDED` on an unwritten counter (R273). -/
theorem exec_of_sm_unwritten {s : State} {i : Instr} (hr : readsSm i = true) (h : s.sm = none) :
    exec i s = .next (s.raise .unseeded) := by
  cases i with
  | smNext => exact exec_smNext_of_unwritten h
  | seedSm => exact exec_seedSm_of_unwritten h
  | smSeed | seedBytes | seedU64 | step | scramble | next | nextU32 | nextU64 | jump | readState | status
  | statusClr => cases hr

/-- Settles O18: a flag that is 0 says that its register is unwritten. -/
theorem unwrittenReadsRaiseUnseeded : Obligations.UnwrittenReadsRaiseUnseeded := by
  intro s i hwf
  exact ⟨fun hr h => exec_of_words_unwritten hwf hr (State.seeded_eq_false.1 h),
    fun hr h => exec_of_sm_unwritten hr (State.smSeeded_eq_false.1 h)⟩

/-- A legal command on registers that hold what it reads, with a seed that is not all zero, ends with `OK`. -/
theorem exec_ok {s : State} {i : Instr} (hwf : i.wf s.gen.variant s.params = true)
    (hw : readsWords i = true → s.gen.words ≠ none) (hm : readsSm i = true → s.sm ≠ none)
    (hseed : i = .seedBytes → s.sampled.argseed.setWidth (8 * s.gen.variant.L) ≠ 0) :
    ∃ t x, exec i s = .next t ∧ t.rsp = some x ∧ x.err = none := by
  cases i with
  | smSeed | seedU64 | status | statusClr => exact ⟨_, _, rfl, rfl, rfl⟩
  | smNext =>
    obtain ⟨c, hc⟩ := Option.ne_none_iff_exists'.1 (hm rfl)
    exact ⟨_, _, exec_smNext_of_written hc, rfl, rfl⟩
  | seedSm =>
    obtain ⟨c, hc⟩ := Option.ne_none_iff_exists'.1 (hm rfl)
    exact ⟨_, _, exec_seedSm_of_written hc, rfl, rfl⟩
  | seedBytes => exact ⟨_, _, exec_seedBytes_of_ne_zero (hseed rfl), rfl, rfl⟩
  | step | scramble | next | nextU32 | nextU64 | readState =>
    obtain ⟨w, h⟩ := Option.ne_none_iff_exists'.1 (hw rfl)
    exact ⟨_, _, congrArg Host.Outcome.next (State.withWords_some h _), rfl, rfl⟩
  | jump =>
    obtain ⟨w, h⟩ := Option.ne_none_iff_exists'.1 (hw rfl)
    exact ⟨_, _, exec_jump_of_written hwf h, rfl, rfl⟩

/-- The outcome of a command against what the table of R276 gives: the error, raised with no other effect, or
`OK`. -/
def OutcomeMatches (o : Host.Outcome State Fault Refusal) (s : State) : Option Err → Prop
  | some e => o = .next (s.raise e)
  | none => ∃ t x, o = .next t ∧ t.rsp = some x ∧ x.err = none

/-- A command accepted ends as the table says (R276): its word is decoded first, and then its command makes the
checks of R275 in their order. -/
theorem State.accept_outcome (s : State) (r : Request) :
    OutcomeMatches (s.accept r) { s with sampled := r.args, offered := none } (expectedError s r) := by
  rcases s.accept_cases r with ⟨hd, e⟩ | ⟨i, hd, e⟩ <;>
    simp only [expectedError, hd, e, Bool.and_eq_true, Bool.not_eq_true', beq_iff_eq, State.seeded_eq_false,
      State.smSeeded_eq_false]
  · exact rfl
  · have hwf : i.wf s.gen.variant s.params = true := (Laws.decode_eq_some.1 hd).2
    split_ifs with hwords hsm hseed
    · exact exec_of_words_unwritten hwf hwords.1 hwords.2
    · exact exec_of_sm_unwritten hsm.1 hsm.2
    · cases hseed.1
      exact exec_seedBytes_of_zero hseed.2
    · exact exec_ok hwf (not_and.1 hwords) (not_and.1 hsm) (not_and.1 hseed)

/-- Settles O19: the outcome matches the table, entry by entry. -/
theorem errorOutcomesByCommand : Obligations.ErrorOutcomesByCommand := by
  intro s r
  have h := s.accept_outcome r
  rcases he : expectedError s r with _ | e <;> rw [he] at h
  · obtain ⟨t, x, ht, hx, hok⟩ := h
    exact ⟨t, x, ht, hx, hok, fun e hn => nomatch hn⟩
  · exact ⟨_, _, h, rfl, rfl, fun e' he' => by cases he'; rfl⟩

end Sys2Proof.Machine

/-! ## Parallel streams (R303) -/

namespace Sys2Proof.Machine

/-- `jump` on a written file of an instance that has one applies `jump_state` and changes no other register. -/
theorem State.transact_jump_of_written {s : State} {v : Variant} {p : Params} {w : Words v}
    (hg : s.gen = ⟨v, some w⟩) (hp : s.params = p) (hj : Sys2Proof.jumpPresent v p = true) :
    ∃ x t, s.transact (.plain .jump) = some (x, t) ∧ t.gen = ⟨v, some (jumpState v p w)⟩ ∧ t.params = p ∧
      t.sm = s.sm := by
  obtain ⟨g, p, m, k, a, r, o, is⟩ := s
  cases hg
  cases hp
  exact ⟨_, _, State.transact_of_accept
    ((State.accept_of_decode (decode_encode (i := .jump) hj)).trans (exec_jump_of_written hj rfl)) rfl, rfl, rfl, rfl⟩

/-- `jump_k` on a written file applies `jump_state` `k` times and changes no other register (R91). -/
theorem State.jumpK_of_written {s : State} {v : Variant} {p : Params} {w : Words v} (hg : s.gen = ⟨v, some w⟩)
    (hp : s.params = p) (hj : Sys2Proof.jumpPresent v p = true) (k : Nat) :
    ∃ xs t, s.jumpK k = some (xs, t) ∧ t.gen = ⟨v, some ((jumpState v p)^[k] w)⟩ ∧ t.sm = s.sm := by
  unfold State.jumpK
  simp only [State.repeatCommand_nil]
  induction k generalizing s w with
  | zero => exact ⟨[], s, rfl, hg, rfl⟩
  | succ k ih =>
    obtain ⟨x, t, ht, hg', hp', hm⟩ := State.transact_jump_of_written hg hp hj
    obtain ⟨xs, u, hu, hg'', hm'⟩ := ih hg' hp'
    exact ⟨x :: xs, u, State.runCommands_cons ht hu, hg'', hm'.trans hm⟩

/-- `seed_u64` writes the expansion of its argument to `S` and changes no other register (R183). -/
theorem State.transact_seedU64 (s : State) (a : Args) :
    ∃ x t, s.transact ⟨encode .seedU64, a⟩ = some (x, t) ∧
      t.gen = ⟨s.gen.variant, some (expandState s.gen.variant s.params a.arg64).1⟩ ∧ t.params = s.params ∧
      t.sm = s.sm := by
  have h : s.accept ⟨encode .seedU64, a⟩ = .next (State.respond
      (State.setWords { s with sampled := a, offered := none }
        (expandState s.gen.variant s.params a.arg64).1) 0 0#512) :=
    (State.accept_of_decode (decode_encode (i := .seedU64) rfl)).trans rfl
  exact ⟨_, _, State.transact_of_accept h rfl, rfl, rfl, rfl⟩

/-- The set-up of a stream is its seeding command and its jumps. -/
theorem State.setUpStream_eq_some {s t u : State} {seed : Request} {k : Nat} {x : Response} {xs : List Response}
    (hs : s.transact seed = some (x, t)) (ht : t.jumpK k = some (xs, u)) : s.setUpStream seed k = some u := by
  simp only [State.setUpStream, hs, ht]

/-- Settles O49: the seed stands in `S`, and each jump applies `jump_state` to it. -/
theorem streamStartsItsNumberOfJumpsOn : Obligations.StreamStartsItsNumberOfJumpsOn := by
  intro s x k hj
  obtain ⟨y, t, hs, hg, hp, hm⟩ := s.transact_seedU64 { Args.zero with arg64 := x }
  obtain ⟨ys, u, ht, hg', hm'⟩ := State.jumpK_of_written hg hp hj k
  exact ⟨u, State.setUpStream_eq_some hs ht, hm'.trans hm, hg'⟩

end Sys2Proof.Machine

end
